-- ==== Sys2Proof/Word.lean ====
section
/-! DEFINITION. The words of the block: 32-bit bus words, 12-bit field elements, 112-bit big integers, and the
bit-field notation of rule R5. -/

namespace Sys2Proof

/-- A window register, a bus data word or a command word (R21, R24). -/
abbrev Word := BitVec 32

/-- A field element as the stores hold it: 12 bits (R4, D42). -/
abbrev Elem := BitVec 12

/-- A big register: W = 112 bits, unsigned (R4, R40). -/
abbrev Big := BitVec 112

end Sys2Proof
end

