-- ==== Sys2Proof/Syntax.lean ====
section
/-! DEFINITION. The 23 commands of spec/opcode_table.json (rule R81), one constructor a row. Immediates are the
unsigned integers of rules R84 and R89; Sys2Proof/WellFormed.lean says which fit their field. -/

namespace Sys2Proof

/-- The four big registers B0..B3 (R40); all four values of a register field are valid (R82). -/
inductive BigReg
  | b0 | b1 | b2 | b3
deriving DecidableEq, Repr

/-- The commands (R81), operands in the order of the syntax of R89. -/
inductive Instr
  | nop
  | clrerr
  | sreset
  | gfCfgbin (poly : Nat)
  | gfCfgprime (p : Nat)
  | gfMul
  | gfAdd
  | gfExp
  | gfLog
  | rsStart (k : Nat)
  | rsFeed (d : Nat)
  | rsRdpar (i : Nat)
  | rsRdgen (j : Nat)
  | rsClear
  | bigWr (rd : BigReg) (chunk : Nat)
  | bigRd (ra : BigReg) (chunk : Nat)
  | bigClr (rd : BigReg)
  | bigAdd (rd ra rb : BigReg)
  | bigSub (rd ra rb : BigReg)
  | bigCmp (ra rb : BigReg)
  | bigShl (rd ra : BigReg) (sh : Nat)
  | bigShr (rd ra : BigReg) (sh : Nat)
  | bigMul10a (rd ra : BigReg) (digit : Nat)
deriving DecidableEq, Repr

end Sys2Proof
end

