-- ==== Sys2Proof/WellFormed.lean ====
section
/-! DEFINITION. Which commands have a word: every immediate fits its field (rules R83, R84, R89). -/

namespace Sys2Proof

/-- "An immediate that does not fit its field is an assembly error, not a word" (R89); the widths are those of
R83. The digits 10..15 of big.mul10a fit, and are RANGE when executed (R159). -/
def Instr.wf : Instr → Bool
  | .gfCfgbin imm13 | .gfCfgprime imm13 | .rsStart imm13 | .rsRdpar imm13 | .rsRdgen imm13 => imm13 < 8192
  | .rsFeed imm12 => imm12 < 4096
  | .bigWr _ chunk | .bigRd _ chunk => chunk < 4
  | .bigShl _ _ sh | .bigShr _ _ sh => sh < 128
  | .bigMul10a _ _ digit => digit < 16
  | .nop | .clrerr | .sreset | .gfMul | .gfAdd | .gfExp | .gfLog | .rsClear => true
  | .bigClr _ | .bigAdd _ _ _ | .bigSub _ _ _ | .bigCmp _ _ => true

end Sys2Proof
end

