-- ==== Sys2Proof/Decode.lean ====
section
/-! DEFINITION. The command words of 30_encoding.md: the bit-field notation (R5), the decoder (R80, R83, R85),
the opcode table as the spec prints it (R81), and the encoder (R92). -/

namespace Sys2Proof

/-- `w[hi:lo]`, read as an unsigned integer (R5). -/
def bits (w : Word) (hi lo : Nat) : Nat := w.toNat / 2 ^ lo % 2 ^ (hi + 1 - lo)

/-- Why a word is ILLEGAL (R80): both reasons latch the same code. -/
inductive DecodeError
  /-- the OPC is not assigned (R86) -/
  | unassignedOpcode (opc : Nat)
  /-- the OPC is assigned and a must-be-zero bit is set (R85) -/
  | mustBeZero (opc : Nat)
deriving DecidableEq, Repr

/-- The register a two-bit field names (R82). -/
def BigReg.ofField : Nat → BigReg
  | 0 => .b0
  | 1 => .b1
  | 2 => .b2
  | _ => .b3

/-- The number of a register in its field (R82). -/
def BigReg.num : BigReg → Nat
  | .b0 => 0
  | .b1 => 1
  | .b2 => 2
  | .b3 => 3

/-- The fields RD, RA and RB of a word (R82). -/
def rdField (w : Word) : BigReg := .ofField (bits w 21 20)
def raField (w : Word) : BigReg := .ofField (bits w 19 18)
def rbField (w : Word) : BigReg := .ofField (bits w 17 16)

/-- The command, if the format's must-be-zero bits are zero (R85). -/
def ifZero (w : Word) (mustBeZero : Bool) (i : Instr) : Except DecodeError Instr :=
  if mustBeZero then .ok i else .error (.mustBeZero (bits w 31 24))

/-! One function a format of R83; the must-be-zero bits are those R85 lists for it. -/

def formatN (w : Word) (i : Instr) : Except DecodeError Instr :=
  ifZero w (bits w 23 0 = 0) i
def formatI13 (w : Word) (f : Nat → Instr) : Except DecodeError Instr :=
  ifZero w (bits w 23 13 = 0) (f (bits w 12 0))
def formatI12 (w : Word) (f : Nat → Instr) : Except DecodeError Instr :=
  ifZero w (bits w 23 12 = 0) (f (bits w 11 0))
def formatBW (w : Word) (f : BigReg → Nat → Instr) : Except DecodeError Instr :=
  ifZero w (bits w 23 22 = 0 && bits w 19 16 = 0 && bits w 15 2 = 0) (f (rdField w) (bits w 1 0))
def formatBR (w : Word) (f : BigReg → Nat → Instr) : Except DecodeError Instr :=
  ifZero w (bits w 23 20 = 0 && bits w 17 16 = 0 && bits w 15 2 = 0) (f (raField w) (bits w 1 0))
def formatB1 (w : Word) (f : BigReg → Instr) : Except DecodeError Instr :=
  ifZero w (bits w 23 22 = 0 && bits w 19 0 = 0) (f (rdField w))
def formatB3 (w : Word) (f : BigReg → BigReg → BigReg → Instr) : Except DecodeError Instr :=
  ifZero w (bits w 23 22 = 0 && bits w 15 0 = 0) (f (rdField w) (raField w) (rbField w))
def formatBC (w : Word) (f : BigReg → BigReg → Instr) : Except DecodeError Instr :=
  ifZero w (bits w 23 20 = 0 && bits w 15 0 = 0) (f (raField w) (rbField w))
def formatBS (w : Word) (f : BigReg → BigReg → Nat → Instr) : Except DecodeError Instr :=
  ifZero w (bits w 23 22 = 0 && bits w 17 16 = 0 && bits w 15 7 = 0) (f (rdField w) (raField w) (bits w 6 0))
def formatBD (w : Word) (f : BigReg → BigReg → Nat → Instr) : Except DecodeError Instr :=
  ifZero w (bits w 23 22 = 0 && bits w 17 16 = 0 && bits w 15 4 = 0) (f (rdField w) (raField w) (bits w 3 0))

/-- The decoder of R80 over the map of R81: total on the 32-bit words, rejecting by name. -/
def decode (w : Word) : Except DecodeError Instr :=
  match bits w 31 24 with
  | 0x00 => formatN w .nop
  | 0x01 => formatN w .clrerr
  | 0x02 => formatN w .sreset
  | 0x10 => formatI13 w .gfCfgbin
  | 0x11 => formatI13 w .gfCfgprime
  | 0x12 => formatN w .gfMul
  | 0x13 => formatN w .gfAdd
  | 0x14 => formatN w .gfExp
  | 0x15 => formatN w .gfLog
  | 0x20 => formatI13 w .rsStart
  | 0x21 => formatI12 w .rsFeed
  | 0x22 => formatI13 w .rsRdpar
  | 0x23 => formatI13 w .rsRdgen
  | 0x24 => formatN w .rsClear
  | 0x30 => formatBW w .bigWr
  | 0x31 => formatBR w .bigRd
  | 0x32 => formatB1 w .bigClr
  | 0x33 => formatB3 w .bigAdd
  | 0x34 => formatB3 w .bigSub
  | 0x35 => formatBC w .bigCmp
  | 0x36 => formatBS w .bigShl
  | 0x37 => formatBS w .bigShr
  | 0x38 => formatBD w .bigMul10a
  | opc => .error (.unassignedOpcode opc)

/-- A row of the opcode table as R81 prints it: mnemonic, match, mask. -/
structure OpcodeRow where
  mnemonic : String
  pattern  : Word
  mask     : Word
deriving DecidableEq, Repr

/-- The opcode table (R81), kept apart from `decode`: a statement says that the two agree. -/
def opcodeTable : List OpcodeRow :=
  [⟨"nop", 0x00000000#32, 0xFFFFFFFF#32⟩,
   ⟨"clrerr", 0x01000000#32, 0xFFFFFFFF#32⟩,
   ⟨"sreset", 0x02000000#32, 0xFFFFFFFF#32⟩,
   ⟨"gf.cfgbin", 0x10000000#32, 0xFFFFE000#32⟩,
   ⟨"gf.cfgprime", 0x11000000#32, 0xFFFFE000#32⟩,
   ⟨"gf.mul", 0x12000000#32, 0xFFFFFFFF#32⟩,
   ⟨"gf.add", 0x13000000#32, 0xFFFFFFFF#32⟩,
   ⟨"gf.exp", 0x14000000#32, 0xFFFFFFFF#32⟩,
   ⟨"gf.log", 0x15000000#32, 0xFFFFFFFF#32⟩,
   ⟨"rs.start", 0x20000000#32, 0xFFFFE000#32⟩,
   ⟨"rs.feed", 0x21000000#32, 0xFFFFF000#32⟩,
   ⟨"rs.rdpar", 0x22000000#32, 0xFFFFE000#32⟩] ++
  [⟨"rs.rdgen", 0x23000000#32, 0xFFFFE000#32⟩,
   ⟨"rs.clear", 0x24000000#32, 0xFFFFFFFF#32⟩,
   ⟨"big.wr", 0x30000000#32, 0xFFCFFFFC#32⟩,
   ⟨"big.rd", 0x31000000#32, 0xFFF3FFFC#32⟩,
   ⟨"big.clr", 0x32000000#32, 0xFFCFFFFF#32⟩,
   ⟨"big.add", 0x33000000#32, 0xFFC0FFFF#32⟩,
   ⟨"big.sub", 0x34000000#32, 0xFFC0FFFF#32⟩,
   ⟨"big.cmp", 0x35000000#32, 0xFFF0FFFF#32⟩,
   ⟨"big.shl", 0x36000000#32, 0xFFC3FF80#32⟩,
   ⟨"big.shr", 0x37000000#32, 0xFFC3FF80#32⟩,
   ⟨"big.mul10a", 0x38000000#32, 0xFFC3FFF0#32⟩]

/-- "(w AND r.mask) = r.match" (R80). -/
def OpcodeRow.matchesWord (row : OpcodeRow) (w : Word) : Bool := w &&& row.mask = row.pattern

/-- The row of the table that a command is an instance of (R81). -/
def Instr.mnemonic : Instr → String
  | .nop => "nop"
  | .clrerr => "clrerr"
  | .sreset => "sreset"
  | .gfCfgbin _ => "gf.cfgbin"
  | .gfCfgprime _ => "gf.cfgprime"
  | .gfMul => "gf.mul"
  | .gfAdd => "gf.add"
  | .gfExp => "gf.exp"
  | .gfLog => "gf.log"
  | .rsStart _ => "rs.start"
  | .rsFeed _ => "rs.feed"
  | .rsRdpar _ => "rs.rdpar"
  | .rsRdgen _ => "rs.rdgen"
  | .rsClear => "rs.clear"
  | .bigWr _ _ => "big.wr"
  | .bigRd _ _ => "big.rd"
  | .bigClr _ => "big.clr"
  | .bigAdd _ _ _ => "big.add"
  | .bigSub _ _ _ => "big.sub"
  | .bigCmp _ _ => "big.cmp"
  | .bigShl _ _ _ => "big.shl"
  | .bigShr _ _ _ => "big.shr"
  | .bigMul10a _ _ _ => "big.mul10a"

/-- A word from its fields (R92). The fields do not overlap, so the OR of R92 is a sum. -/
def encodeFields (opc rd ra rb imm : Nat) : Word :=
  BitVec.ofNat 32 (opc * 2 ^ 24 + rd * 2 ^ 20 + ra * 2 ^ 18 + rb * 2 ^ 16 + imm)

/-- The word of a well-formed command (R81, R92): every field its format does not use is 0. -/
def encode : Instr → Word
  | .nop => encodeFields 0x00 0 0 0 0
  | .clrerr => encodeFields 0x01 0 0 0 0
  | .sreset => encodeFields 0x02 0 0 0 0
  | .gfCfgbin imm => encodeFields 0x10 0 0 0 imm
  | .gfCfgprime imm => encodeFields 0x11 0 0 0 imm
  | .gfMul => encodeFields 0x12 0 0 0 0
  | .gfAdd => encodeFields 0x13 0 0 0 0
  | .gfExp => encodeFields 0x14 0 0 0 0
  | .gfLog => encodeFields 0x15 0 0 0 0
  | .rsStart imm => encodeFields 0x20 0 0 0 imm
  | .rsFeed imm => encodeFields 0x21 0 0 0 imm
  | .rsRdpar imm => encodeFields 0x22 0 0 0 imm
  | .rsRdgen imm => encodeFields 0x23 0 0 0 imm
  | .rsClear => encodeFields 0x24 0 0 0 0
  | .bigWr rd chunk => encodeFields 0x30 rd.num 0 0 chunk
  | .bigRd ra chunk => encodeFields 0x31 0 ra.num 0 chunk
  | .bigClr rd => encodeFields 0x32 rd.num 0 0 0
  | .bigAdd rd ra rb => encodeFields 0x33 rd.num ra.num rb.num 0
  | .bigSub rd ra rb => encodeFields 0x34 rd.num ra.num rb.num 0
  | .bigCmp ra rb => encodeFields 0x35 0 ra.num rb.num 0
  | .bigShl rd ra sh => encodeFields 0x36 rd.num ra.num 0 sh
  | .bigShr rd ra sh => encodeFields 0x37 rd.num ra.num 0 sh
  | .bigMul10a rd ra digit => encodeFields 0x38 rd.num ra.num 0 digit

/-- What the decoder reads from an instruction of the opcode table whose low `nbits` bits are those of `w` (the
bits above are 0); none where it refuses. A command is one 32-bit bus word, so there is no byte order (R63, R88). -/
def decodeTableWord (nbits w : Nat) : Option Instr :=
  match decode (BitVec.ofNat 32 (w % 2 ^ nbits)) with
  | .ok i => some i
  | .error _ => none

end Sys2Proof
end

