-- ==== Sys2Proof/Config.lean ====
section
/-! DEFINITION. The open parameters of rule R4 and the one unspecified value a host can observe (R206). None has
a value Lean can evaluate. -/

namespace Sys2Proof.Config

/-- Which K_MAX the implementation has, counted down from the largest (R4, D16). Log 3. -/
opaque kMaxBelow : Fin 8191

/-- K_MAX: some integer with 1 ≤ K_MAX ≤ 8191 (R4, R23). Log 3. -/
def kMax : BitVec 13 := BitVec.ofNat 13 (8191 - kMaxBelow.val)

/-- RSGF_BASE, the window's base in the host's address map: no rule of the block depends on it (R67, D46).
Log 12. -/
opaque rsgfBase : Nat

/-- The unspecified value that the n-th read breaking rule R204 returns (R62, R206). Log 4. -/
opaque unspecifiedRead : Nat → Word

end Sys2Proof.Config
end

