-- ==== Sys2Proof/Machine/State.lean ====
section
/-! DEFINITION. The state of the block, following the record of rule R44 name by name, the parameter K_MAX as plain
data, what the host does next, and the reset state of rule R200. -/

namespace Sys2Proof.Machine

/-- The error codes of R181. Codes 0x09..0xFF are never produced (U11). -/
inductive ErrorCode
  | noError | illegal | noField | badPoly | badPrime | noGen | range | logZero | busy
deriving DecidableEq, Repr

/-- KIND (R7, R29). -/
inductive FieldKind
  | bin | prime
deriving DecidableEq, Repr

/-- The configured field (R36, R44): kind, FMOD, m, α, N (here `order`) and the root exponent b. -/
structure FieldCfg where
  kind  : FieldKind
  fmod  : BitVec 13
  m     : BitVec 4
  alpha : Elem
  order : Elem
  b     : Elem
deriving DecidableEq, Repr

/-- "field <- all zero" (R110). -/
def FieldCfg.zero : FieldCfg := { kind := .bin, fmod := 0, m := 0, alpha := 0, order := 0, b := 0 }

/-- The big registers B0..B3 (R40). -/
structure BigFile where
  b0 : Big
  b1 : Big
  b2 : Big
  b3 : Big
deriving DecidableEq, Repr

/-- The sixteen words of the register window, in the order of their offsets (R21). -/
inductive WindowReg
  | id | params | cmd | status | errcode | arg0 | arg1 | result
  | fcfg | falpha | forder | groot | glen | feedcnt | reserved38 | reserved3C
deriving DecidableEq, Repr

/-- A transaction on the host port while bus_sel = 1 (R20): bus_we, bus_addr (the word index), bus_be, bus_wdata. -/
structure BusAccess where
  we    : Bool
  addr  : BitVec 4
  be    : BitVec 4
  wdata : Word
deriving DecidableEq, Repr

/-- What can happen next to the block from outside (log 1). -/
inductive Event
  /-- the host presents a bus transaction (R69) -/
  | access (a : BusAccess)
  /-- the LATENCY of the running command has passed (R204, R210; log 2) -/
  | finish
  /-- rst_n is low (R201) -/
  | hardReset
deriving DecidableEq, Repr

/-- What the block answered to the last bus transaction: bus_rdata of a read, or only bus_ready of a write
(R20; log 6). -/
inductive Response
  | none
  | readData (v : Word)
  | written
deriving DecidableEq, Repr

/-- The block (R44). -/
structure State where
  /-- operand registers (R27) -/
  arg0    : Word
  arg1    : Word
  /-- R28 -/
  result  : Word
  /-- the error latch (R26, R182) -/
  errcode : ErrorCode
  /-- the flags (R41) -/
  c       : Bool
  z       : Bool
  gt      : Bool
  eq      : Bool
  /-- R40 -/
  big     : BigFile
  /-- FIELD_OK and, meaningful while it is set, the field and its tables (R36, R37): LOG of 4096 entries and ALOG of
  4095 (R74), sizes that no step changes (log 8) -/
  fieldOk : Bool
  field   : FieldCfg
  log     : List Elem
  alog    : List Elem
  /-- GEN_OK and, meaningful while it is set, k = GLEN, the generator, the remainder and FEEDCNT (R33, R34, R38):
  G of K_MAX + 1 entries and R of K_MAX (R4, R74; log 8) -/
  genOk   : Bool
  k       : BitVec 13
  g       : List Elem
  r       : List Elem
  feedcnt : BitVec 32
  /-- the command word in progress; BUSY = 1 while there is one (R42, R200) -/
  running : Option Word
  /-- the model's own: the parameter K_MAX, which no step changes (R4; log 3) -/
  kMax    : BitVec 13
  /-- the model's own: what happens next, first event first (log 1) -/
  events  : List Event
  /-- the model's own: the answer to the last bus transaction (log 6) -/
  response : Response
  /-- the model's own: how many unspecified values reads have drawn (log 4) -/
  draws   : Nat
deriving DecidableEq, Repr

/-- No rule stops the block: a failing command latches a code and the next command runs normally (R180, R187), so
the machine has no fault and nobody raises one. Log 13. -/
inductive Fault
deriving DecidableEq, Repr

/-- What the model gives no step. -/
inductive Refusal
  /-- An instruction without a meaning. No command of the table is one: nothing raises it. Safe. -/
  | notModelled (mnemonic : String)
  /-- A bus access whose byte enables are not 0b1111: bus_err = 1, no state changes, and "A model refuses such an
  access: the host that issues it has no step" (R61, R195). Raised by the bus, never by a command. Safe. Log 5. -/
  | illegalAccess
deriving DecidableEq, Repr

/-- A store of n entries, all 0. -/
def zeroStore (n : Nat) : List Elem := List.replicate n 0

/-- The reset state of R200 for a given K_MAX; what R200 leaves unspecified is zero (log 7), in stores
of the sizes of R74. -/
def State.resetWith (kMax : BitVec 13) : State where
  arg0 := 0
  arg1 := 0
  result := 0
  errcode := .noError
  c := false
  z := false
  gt := false
  eq := false
  big := { b0 := 0, b1 := 0, b2 := 0, b3 := 0 }
  fieldOk := false
  field := .zero
  log := zeroStore 4096
  alog := zeroStore 4095
  genOk := false
  k := 0
  g := zeroStore (kMax.toNat + 1)
  r := zeroStore kMax.toNat
  feedcnt := 0
  running := none
  kMax := kMax
  events := []
  response := .none
  draws := 0

/-- The machine right after hardware reset (R200), K_MAX open (log 3), with nothing happening next (log 1). -/
def State.reset : State := .resetWith Config.kMax

end Sys2Proof.Machine
end

