-- ==== Sys2Proof/Machine/Galois.lean ====
section
/-! DEFINITION. Field arithmetic on the integers 0 ≤ e < q (rules R7, R8), and the table build of R114. -/

namespace Sys2Proof.Machine

/-- Multiplication by x modulo poly: shift, and reduce if bit m appears (R8, R114). -/
def xtime (poly m v : Nat) : Nat :=
  if (v <<< 1).testBit m then (v <<< 1) ^^^ poly else v <<< 1

/-- One pass of the loop of `clmulmod` (R8) on the pair (a, r). -/
def clmulStep (b poly m : Nat) (ar : Nat × Nat) (i : Nat) : Nat × Nat :=
  (xtime poly m ar.1, if b.testBit i then ar.2 ^^^ ar.1 else ar.2)

/-- The carry-less product reduced modulo poly (R8). -/
def clmulmod (a b poly m : Nat) : Nat :=
  ((List.range m).foldl (clmulStep b poly m) (a, 0)).2

namespace FieldCfg

/-- q(F): the number of elements (R7). -/
def q (F : FieldCfg) : Nat :=
  match F.kind with
  | .bin => 2 ^ F.m.toNat
  | .prime => F.fmod.toNat

/-- N: the order of α (R7, R36). -/
def N (F : FieldCfg) : Nat := F.order.toNat

/-- `fadd` (R8). -/
def add (F : FieldCfg) (a b : Nat) : Nat :=
  match F.kind with
  | .bin => a ^^^ b
  | .prime => (a + b) % F.fmod.toNat

/-- `fneg` (R8). -/
def neg (F : FieldCfg) (a : Nat) : Nat :=
  match F.kind with
  | .bin => a
  | .prime => (F.fmod.toNat - a) % F.fmod.toNat

/-- `fsub` (R8). -/
def sub (F : FieldCfg) (a b : Nat) : Nat := F.add a (F.neg b)

/-- `fmul` (R8), by the defining form of 90_conflicts.md C5 (log 10). -/
def mul (F : FieldCfg) (a b : Nat) : Nat :=
  match F.kind with
  | .bin => clmulmod a b F.fmod.toNat F.m.toNat
  | .prime => a * b % F.fmod.toNat

/-- `fexp`: α multiplied by itself e times, `fexp(0) = 1` (R8). -/
def exp (F : FieldCfg) : Nat → Nat
  | 0 => 1
  | e + 1 => F.mul (F.exp e) F.alpha.toNat

/-- `step(v)` of the table build (R114). -/
def step (F : FieldCfg) (v : Nat) : Nat :=
  match F.kind with
  | .bin => xtime F.fmod.toNat F.m.toNat v
  | .prime => v * F.alpha.toNat % F.fmod.toNat

end FieldCfg

/-- What a table build leaves: ALOG from the current index on, LOG, and `ok` (R114). -/
structure Tables where
  alog : List Nat
  log  : List Nat
  ok   : Bool
deriving DecidableEq, Repr

/-- The loop of `build_tables` (R114) from index e with value v, `n` passes to go. -/
def buildFrom (F : FieldCfg) : (n e v : Nat) → (log : List Nat) → Tables
  | 0, _, v, log => { alog := [], log := log, ok := v == 1 }
  | n + 1, e, v, log =>
    let rest := buildFrom F n (e + 1) (F.step v) (log.set v e)
    { rest with alog := v :: rest.alog, ok := rest.ok && !(decide (0 < e) && v == 1) }

/-- `build_tables(F)` (R114). It writes the first q entries of LOG (entry 0 is
unused) and the first N of ALOG (R4; log 8). -/
def buildTables (F : FieldCfg) : Tables := buildFrom F F.N 0 1 (List.replicate F.q 0)

/-- An element, log value or coefficient as a store holds it: 12 bits (R4). -/
def toStore (l : List Nat) : List Elem := l.map (BitVec.ofNat 12)

/-- The contents of a store as integers. -/
def ofStore (l : List Elem) : List Nat := l.map BitVec.toNat

end Sys2Proof.Machine
end

