-- ==== Sys2Proof/Machine/Ops.lean ====
section
/-! DEFINITION. The named operations on the state: the error latch (the block's whole exception mechanism: R180, R182,
R186), how a command succeeds or fails, invalidation, reset, the big registers, and reading the register window. -/

namespace Sys2Proof.Machine

/-- The code number of R181. -/
def ErrorCode.code : ErrorCode → BitVec 8
  | .noError => 0x00
  | .illegal => 0x01
  | .noField => 0x02
  | .badPoly => 0x03
  | .badPrime => 0x04
  | .noGen => 0x05
  | .range => 0x06
  | .logZero => 0x07
  | .busy => 0x08

/-- `latch(code)` (R182): sticky-first. -/
def latch (code : ErrorCode) (s : State) : State :=
  { s with errcode := if s.errcode = .noError then code else s.errcode }

/-- `raise Error(code)` (R10, R180): the command fails, and the machine goes on. -/
def raise (code : ErrorCode) (s : State) : Host.Outcome State Fault Refusal := .next (latch code s)

/-- The code of the first check that fails, in the order listed (R184). -/
def firstError : List (Option ErrorCode) → Option ErrorCode
  | [] => none
  | some code :: _ => some code
  | none :: rest => firstError rest

/-- A command: the first failing check decides the code and nothing else changes; with no failing check the effect
happens (R180, R183, R184). -/
def command (checks : List (Option ErrorCode)) (effect : State → State) (s : State) :
    Host.Outcome State Fault Refusal :=
  match firstError checks with
  | some code => raise code s
  | none => .next (effect s)

/-- `invalidate_field()` (R110). The stores, which it leaves unspecified, keep their contents (log 7). -/
def invalidateField (s : State) : State :=
  { s with fieldOk := false, field := .zero, genOk := false, k := 0, feedcnt := 0 }

/-- A configure command: as `command`, but a failure leaves no field and no generator (R111, R112, R183, D13). -/
def configure (checks : List (Option ErrorCode)) (effect : State → State) (s : State) :
    Host.Outcome State Fault Refusal :=
  match firstError checks with
  | some code => raise code (invalidateField s)
  | none => .next (effect s)

/-- A store with its first entries replaced. Its size is fixed, and no entry past its end is written (R74). -/
def overwrite : (store new : List Elem) → List Elem
  | [], _ => []
  | store, [] => store
  | _ :: store, x :: new => x :: overwrite store new

/-- The configured field F and its tables; the generator dies (R111, R112, D40). -/
def installField (F : FieldCfg) (T : Tables) (s : State) : State :=
  { invalidateField s with
    fieldOk := true, field := F, log := overwrite s.log (toStore T.log), alog := overwrite s.alog (toStore T.alog) }

/-- A live generator of degree k with a zero remainder (R131). -/
def installGen (k : Nat) (g : List Nat) (s : State) : State :=
  { s with
    genOk := true, k := BitVec.ofNat 13 k, g := overwrite s.g (toStore g),
    r := overwrite s.r (zeroStore k), feedcnt := 0 }

/-- RESULT, zero-extended (R28, D29). -/
def setResult (v : Nat) (s : State) : State := { s with result := BitVec.ofNat 32 v }

/-- The reset state of R200 in every register and internal store. K_MAX is a constant of the block; the events to
come, the answer already given to the host and the draw counter are not its state (log 6). -/
def resetBlock (s : State) : State :=
  { State.resetWith s.kMax with events := s.events, response := s.response, draws := s.draws }

/-- Reading B[i] (R10, R40). -/
def BigFile.get (f : BigFile) : BigReg → Big
  | .b0 => f.b0
  | .b1 => f.b1
  | .b2 => f.b2
  | .b3 => f.b3

/-- Writing B[i] (R10, R40). -/
def BigFile.set (f : BigFile) (i : BigReg) (v : Big) : BigFile :=
  match i with
  | .b0 => { f with b0 := v }
  | .b1 => { f with b1 := v }
  | .b2 => { f with b2 := v }
  | .b3 => { f with b3 := v }

/-- B[i] as an unsigned integer (R150). -/
def State.bigVal (s : State) (i : BigReg) : Nat := (s.big.get i).toNat

/-- BUSY (R42): a command is in progress. -/
def State.busy (s : State) : Bool := s.running.isSome

/-- STATUS (R25). -/
def statusWord (s : State) : Word :=
  0#24 ++ BitVec.ofBool s.eq ++ BitVec.ofBool s.gt ++ BitVec.ofBool s.z ++ BitVec.ofBool s.c ++
    BitVec.ofBool (s.errcode ≠ .noError) ++ BitVec.ofBool s.genOk ++ BitVec.ofBool s.fieldOk ++ BitVec.ofBool s.busy

/-- KIND (R29): 0 binary, 1 prime. -/
def FieldKind.bit : FieldKind → BitVec 1
  | .bin => 0
  | .prime => 1

/-- FCFG (R29). -/
def fcfgWord (F : FieldCfg) : Word := 0#12 ++ F.m ++ 0#2 ++ F.kind.bit ++ F.fmod

/-- A mirror of the field, 0 while FIELD_OK = 0 (R29 to R32, R36). -/
def fieldMirror (s : State) (v : Word) : Word := if s.fieldOk then v else 0

/-- The value of a window register (R21 to R35). -/
def readWindow (s : State) : WindowReg → Word
  | .id => 0x52470007
  | .params => 0x4C700000#32 ||| s.kMax.setWidth 32
  | .cmd => 0
  | .status => statusWord s
  | .errcode => s.errcode.code.setWidth 32
  | .arg0 => s.arg0
  | .arg1 => s.arg1
  | .result => s.result
  | .fcfg => fieldMirror s (fcfgWord s.field)
  | .falpha => fieldMirror s (s.field.alpha.setWidth 32)
  | .forder => fieldMirror s (s.field.order.setWidth 32)
  | .groot => fieldMirror s (s.field.b.setWidth 32)
  | .glen => if s.genOk then s.k.setWidth 32 else 0
  | .feedcnt => s.feedcnt
  | .reserved38 => 0
  | .reserved3C => 0

/-- The register at a word index of the window (R20, R21). -/
def WindowReg.ofAddr (a : BitVec 4) : WindowReg :=
  match a.toNat with
  | 0 => .id
  | 1 => .params
  | 2 => .cmd
  | 3 => .status
  | 4 => .errcode
  | 5 => .arg0
  | 6 => .arg1
  | 7 => .result
  | 8 => .fcfg
  | 9 => .falpha
  | 10 => .forder
  | 11 => .groot
  | 12 => .glen
  | 13 => .feedcnt
  | 14 => .reserved38
  | _ => .reserved3C

/-- The word index of a register (R20, R21). -/
def WindowReg.addr : WindowReg → BitVec 4
  | .id => 0
  | .params => 1
  | .cmd => 2
  | .status => 3
  | .errcode => 4
  | .arg0 => 5
  | .arg1 => 6
  | .result => 7
  | .fcfg => 8
  | .falpha => 9
  | .forder => 10
  | .groot => 11
  | .glen => 12
  | .feedcnt => 13
  | .reserved38 => 14
  | .reserved3C => 15

/-- ID, PARAMS, STATUS and ERRCODE may be read at any time (R62, R204). -/
def WindowReg.readableWhileBusy : WindowReg → Bool
  | .id | .params | .status | .errcode => true
  | .cmd | .arg0 | .arg1 | .result | .fcfg | .falpha | .forder | .groot | .glen | .feedcnt | .reserved38
  | .reserved3C => false

end Sys2Proof.Machine
end

