-- ==== Sys2Proof/Machine/Operands.lean ====
section
/-! DEFINITION. The checks a command makes on the state and its operands (R110, R137, R181), and reads of the
internal stores. -/

namespace Sys2Proof.Machine

/-- The check fails with `code` when `bad` holds. -/
def failIf (bad : Bool) (code : ErrorCode) : Option ErrorCode := if bad then some code else none

/-- `require_field()` (R110). -/
def requireField (s : State) : Option ErrorCode := failIf (!s.fieldOk) .noField

/-- `require_elem(x)` (R110): a whole 32-bit operand, never truncated. -/
def requireElem (s : State) (x : Nat) : Option ErrorCode := failIf (s.field.q ≤ x) .range

/-- `require_gen()` (R137). -/
def requireGen (s : State) : Option ErrorCode := failIf (!s.genOk) .noGen

/-- The operands ARG0 and ARG1 as integers (R27, R203). -/
def State.a0 (s : State) : Nat := s.arg0.toNat
def State.a1 (s : State) : Nat := s.arg1.toNat

/-- GLEN as an integer (R33). -/
def State.kVal (s : State) : Nat := s.k.toNat

/-- Entry i of an internal store (R10). No command reaches an index outside a store (R74); 0 there is for totality
only (log 9). -/
def entry (l : List Elem) (i : Nat) : Nat := (l.getD i 0).toNat

/-- The coefficients of the live generator, G[0..k] (R38). -/
def State.genCoeffs (s : State) : List Nat := (ofStore s.g).take (s.kVal + 1)

/-- The coefficients of the live remainder, R[0..k−1] (R38). -/
def State.remCoeffs (s : State) : List Nat := (ofStore s.r).take s.kVal

end Sys2Proof.Machine
end

