-- ==== Sys2Proof/Machine/Flags.lean ====
section
/-! DEFINITION. The flags (R41): C and Z with an arithmetic result, GT and EQ with a compare. -/

namespace Sys2Proof.Machine

/-- An arithmetic result: "B[rd] <- t mod 2^W", C as given, "Z <- (B[rd] = 0)" (R150, R154 to R159). -/
def writeBig (rd : BigReg) (t : Nat) (c : Bool) (s : State) : State :=
  { s with big := s.big.set rd (BitVec.ofNat 112 t), c := c, z := t % 2 ^ 112 == 0 }

/-- The compare flags, written together (R41, R156). -/
def writeCompare (a b : Nat) (s : State) : State := { s with gt := decide (a > b), eq := decide (a = b) }

end Sys2Proof.Machine
end

