-- ==== Sys2Proof/Machine/BigInt.lean ====
section
/-! DEFINITION. The big-integer unit (43_bigint.md): exact integers, reduced modulo 2^112 at the end (R150). Source
registers are read before the destination is written (R150, D36). -/

namespace Sys2Proof.Machine

/-- B with chunk `chunk` replaced: 32 bits of chunks 0 to 2, bits [111:96] of chunk 3 (R151). -/
def withChunk (v : Big) (chunk : Nat) (data : Word) : Big :=
  let lo := 32 * chunk
  let cleared := v &&& ~~~((0xFFFFFFFF#112) <<< lo)
  cleared ||| (data.setWidth 112 <<< lo)

/-- `big.wr` (R151). -/
def execBigWr (rd : BigReg) (chunk : Nat) (s : State) : Host.Outcome State Fault Refusal :=
  command [failIf (chunk == 3 && s.a0 / 2 ^ 16 != 0) .range]
    (fun s => { s with big := s.big.set rd (withChunk (s.big.get rd) chunk s.arg0) }) s

/-- `big.rd` (R152). -/
def execBigRd (ra : BigReg) (chunk : Nat) (s : State) : Host.Outcome State Fault Refusal :=
  command [] (setResult (s.bigVal ra / 2 ^ (32 * chunk) % 2 ^ 32)) s

/-- `big.clr` (R153): Z ← 1, C ← 0 (D45). -/
def execBigClr (rd : BigReg) (s : State) : Host.Outcome State Fault Refusal :=
  command [] (writeBig rd 0 false) s

/-- `big.add` (R154). -/
def execBigAdd (rd ra rb : BigReg) (s : State) : Host.Outcome State Fault Refusal :=
  let t := s.bigVal ra + s.bigVal rb
  command [] (writeBig rd t (decide (t ≥ 2 ^ 112))) s

/-- `big.sub` (R155): C is the borrow. -/
def execBigSub (rd ra rb : BigReg) (s : State) : Host.Outcome State Fault Refusal :=
  let a := s.bigVal ra
  let c := s.bigVal rb
  command [] (writeBig rd (a + 2 ^ 112 - c) (decide (a < c))) s

/-- `big.cmp` (R156): unsigned. -/
def execBigCmp (ra rb : BigReg) (s : State) : Host.Outcome State Fault Refusal :=
  command [] (writeCompare (s.bigVal ra) (s.bigVal rb)) s

/-- `big.shl` (R157): C says that some 1 bit was shifted out. -/
def execBigShl (rd ra : BigReg) (sh : Nat) (s : State) : Host.Outcome State Fault Refusal :=
  let t := s.bigVal ra * 2 ^ sh
  command [] (writeBig rd t (t / 2 ^ 112 != 0)) s

/-- `big.shr` (R158): logical; C says that some 1 bit was shifted out. -/
def execBigShr (rd ra : BigReg) (sh : Nat) (s : State) : Host.Outcome State Fault Refusal :=
  let a := s.bigVal ra
  command [] (writeBig rd (a / 2 ^ sh) (a % 2 ^ sh != 0)) s

/-- `big.mul10a` (R159): digits 10..15 are RANGE. -/
def execBigMul10a (rd ra : BigReg) (digit : Nat) (s : State) : Host.Outcome State Fault Refusal :=
  let t := s.bigVal ra * 10 + digit
  command [failIf (9 < digit) .range] (writeBig rd t (decide (t ≥ 2 ^ 112))) s

end Sys2Proof.Machine
end

