-- ==== Sys2Proof/Machine/Control.lean ====
section
/-! DEFINITION. The control commands (40_control.md). -/

namespace Sys2Proof.Machine

/-- `nop` (R100). -/
def execNop (s : State) : Host.Outcome State Fault Refusal := .next s

/-- `clrerr` (R101). -/
def execClrerr (s : State) : Host.Outcome State Fault Refusal := .next { s with errcode := .noError }

/-- `sreset` (R102): the state of R200. -/
def execSreset (s : State) : Host.Outcome State Fault Refusal := .next (resetBlock s)

end Sys2Proof.Machine
end

