-- ==== Sys2Proof/Machine/Encoder.lean ====
section
/-! DEFINITION. The Reed-Solomon encoder (42_rs.md). A polynomial is its list of coefficients, the coefficient of
x^0 first (R9). -/

namespace Sys2Proof.Machine

namespace FieldCfg

/-- One pass of the loop of `build_gen` (R132): the running product times (x − r). -/
def mulRoot (F : FieldCfg) (r : Nat) (g : List Nat) : List Nat :=
  F.neg (F.mul (g.headD 0) r) :: (List.zipWith (fun lower gj => F.sub lower (F.mul gj r)) g g.tail ++ [1])

/-- `build_gen(k)` (R132): the generator with roots α^b, …, α^(b+k−1). -/
def buildGen (F : FieldCfg) (k : Nat) : List Nat :=
  (List.range k).foldl (fun g i => F.mulRoot (F.exp (F.b.toNat + i)) g) [1]

/-- The new remainder after feeding d (R133): every right-hand side reads the old one. -/
def feedStep (F : FieldCfg) (g r : List Nat) (d : Nat) : List Nat :=
  let fb := F.add d (r.getLastD 0)
  F.neg (F.mul fb (g.headD 0)) ::
    List.zipWith (fun lower gj => F.sub lower (F.mul fb gj)) r.dropLast g.tail

end FieldCfg

/-- `rs.start` (R131). -/
def execRsStart (k : Nat) (s : State) : Host.Outcome State Fault Refusal :=
  command [requireField s, failIf (k < 1 || s.kMax.toNat < k) .range]
    (installGen k (s.field.buildGen k)) s

/-- A successful feed: the remainder and FEEDCNT (R133). -/
def feedEffect (d : Nat) (s : State) : State :=
  { s with
    r := overwrite s.r (toStore (s.field.feedStep s.genCoeffs s.remCoeffs d))
    feedcnt := s.feedcnt + 1 }

/-- `rs.feed` (R133). -/
def execRsFeed (d : Nat) (s : State) : Host.Outcome State Fault Refusal :=
  command [requireGen s, requireElem s d] (feedEffect d) s

/-- `rs.rdpar` (R134): the negated reversed remainder (90_conflicts.md C2). -/
def execRsRdpar (i : Nat) (s : State) : Host.Outcome State Fault Refusal :=
  command [requireGen s, failIf (s.kVal ≤ i) .range]
    (setResult (s.field.neg (entry s.r (s.kVal - 1 - i)))) s

/-- `rs.rdgen` (R135). -/
def execRsRdgen (j : Nat) (s : State) : Host.Outcome State Fault Refusal :=
  command [requireGen s, failIf (s.kVal < j) .range] (setResult (entry s.g j)) s

/-- `rs.clear` (R136): the generator and k are kept. -/
def execRsClear (s : State) : Host.Outcome State Fault Refusal :=
  command [requireGen s] (fun s => { s with r := overwrite s.r (zeroStore s.kVal), feedcnt := 0 }) s

end Sys2Proof.Machine
end

