-- ==== Sys2Proof/Machine/FieldUnit.lean ====
section
/-! DEFINITION. The field unit (41_gf.md). -/

namespace Sys2Proof.Machine

/-- BIN(poly) with root exponent b (R7, R111): m is the index of poly's top bit, α = 2. -/
def binField (poly b : Nat) : FieldCfg where
  kind := .bin
  fmod := BitVec.ofNat 13 poly
  m := BitVec.ofNat 4 poly.log2
  alpha := 2
  order := BitVec.ofNat 12 (2 ^ poly.log2 - 1)
  b := BitVec.ofNat 12 b

/-- PRIME(p, g) with root exponent b (R7, R112). -/
def primeField (p g b : Nat) : FieldCfg where
  kind := .prime
  fmod := BitVec.ofNat 13 p
  m := 0
  alpha := BitVec.ofNat 12 g
  order := BitVec.ofNat 12 (p - 1)
  b := BitVec.ofNat 12 b

/-- `gf.cfgbin` (R111). -/
def execGfCfgbin (poly : Nat) (s : State) : Host.Outcome State Fault Refusal :=
  let F := binField poly s.a1
  let T := buildTables F
  configure
    [failIf (poly < 4) .badPoly,
     failIf (2 ^ poly.log2 - 2 < s.a1) .range,
     failIf (!T.ok) .badPoly]
    (installField F T) s

/-- `gf.cfgprime` (R112). -/
def execGfCfgprime (p : Nat) (s : State) : Host.Outcome State Fault Refusal :=
  let F := primeField p s.a0 s.a1
  let T := buildTables F
  configure
    [failIf (p < 3 || 4095 < p) .badPrime,
     failIf (p ≤ s.a0) .range,
     failIf (p - 2 < s.a1) .range,
     failIf (!T.ok) .badPrime]
    (installField F T) s

/-- `gf.mul` (R117). -/
def execGfMul (s : State) : Host.Outcome State Fault Refusal :=
  command [requireField s, requireElem s s.a0, requireElem s s.a1]
    (setResult (s.field.mul s.a0 s.a1)) s

/-- `gf.add` (R118). -/
def execGfAdd (s : State) : Host.Outcome State Fault Refusal :=
  command [requireField s, requireElem s s.a0, requireElem s s.a1]
    (setResult (s.field.add s.a0 s.a1)) s

/-- `gf.exp` (R119): an antilog table read, the exponent reduced modulo N (D38). -/
def execGfExp (s : State) : Host.Outcome State Fault Refusal :=
  command [requireField s] (setResult (entry s.alog (s.a0 % s.field.N))) s

/-- `gf.log` (R120): a log table read; RANGE is checked before LOG_ZERO. -/
def execGfLog (s : State) : Host.Outcome State Fault Refusal :=
  command [requireField s, requireElem s s.a0, failIf (s.a0 == 0) .logZero]
    (setResult (entry s.log s.a0)) s

end Sys2Proof.Machine
end

