-- ==== Sys2Proof/Machine/Dispatch.lean ====
section
/-! DEFINITION. One arm per command, each one call of its meaning. -/

namespace Sys2Proof.Machine

/-- `exec(w, state)` of rule R205 for the decoded command: one atomic transition. -/
def exec (i : Instr) (s : State) : Host.Outcome State Fault Refusal :=
  match i with
  | .nop => Sys2Proof.Machine.execNop s
  | .clrerr => Sys2Proof.Machine.execClrerr s
  | .sreset => Sys2Proof.Machine.execSreset s
  | .gfCfgbin poly => Sys2Proof.Machine.execGfCfgbin poly s
  | .gfCfgprime p => Sys2Proof.Machine.execGfCfgprime p s
  | .gfMul => Sys2Proof.Machine.execGfMul s
  | .gfAdd => Sys2Proof.Machine.execGfAdd s
  | .gfExp => Sys2Proof.Machine.execGfExp s
  | .gfLog => Sys2Proof.Machine.execGfLog s
  | .rsStart k => Sys2Proof.Machine.execRsStart k s
  | .rsFeed d => Sys2Proof.Machine.execRsFeed d s
  | .rsRdpar idx => Sys2Proof.Machine.execRsRdpar idx s
  | .rsRdgen j => Sys2Proof.Machine.execRsRdgen j s
  | .rsClear => Sys2Proof.Machine.execRsClear s
  | .bigWr rd chunk => Sys2Proof.Machine.execBigWr rd chunk s
  | .bigRd ra chunk => Sys2Proof.Machine.execBigRd ra chunk s
  | .bigClr rd => Sys2Proof.Machine.execBigClr rd s
  | .bigAdd rd ra rb => Sys2Proof.Machine.execBigAdd rd ra rb s
  | .bigSub rd ra rb => Sys2Proof.Machine.execBigSub rd ra rb s
  | .bigCmp ra rb => Sys2Proof.Machine.execBigCmp ra rb s
  | .bigShl rd ra sh => Sys2Proof.Machine.execBigShl rd ra sh s
  | .bigShr rd ra sh => Sys2Proof.Machine.execBigShr rd ra sh s
  | .bigMul10a rd ra digit => Sys2Proof.Machine.execBigMul10a rd ra digit s

end Sys2Proof.Machine
end

