-- ==== Sys2Proof/Machine/Bus.lean ====
section
/-! DEFINITION. The host port (20_memory.md, 70_reset_and_hazards.md R204 to R207): bus transactions, the acceptance and the
completion of a command, hardware reset, and the very next event. The non-atomic behaviour of R206 is modelled: a command is
accepted in one step and completes, with all its effects together, in a later one. -/

namespace Sys2Proof.Machine

/-- Decode and execute a command word in one step (R80, R205): an illegal word only latches ILLEGAL. -/
def execWord (w : Word) (s : State) : Host.Outcome State Fault Refusal :=
  match decode w with
  | .ok i => exec i s
  | .error _ => raise .illegal s

/-- The LATENCY of the running command is over: BUSY falls and all its effects appear (R204, R205). With no command
running nothing happens. -/
def finishCommand (s : State) : Host.Outcome State Fault Refusal :=
  match s.running with
  | some w => execWord w { s with running := none }
  | none => .next s

/-- A write of CMD, ARG0 or ARG1: dropped with BUSY latched while a command runs (R62, R206), else done. -/
def acceptOrDrop (write : State → State) (s : State) : State :=
  if s.busy then latch .busy s else write s

/-- The effect of a legal write (R62, R65, R206). Writes to any other register are ignored (R21, R35). -/
def writeWindow (reg : WindowReg) (v : Word) (s : State) : State :=
  match reg with
  | .cmd => acceptOrDrop (fun s => { s with running := some v }) s
  | .arg0 => acceptOrDrop (fun s => { s with arg0 := v }) s
  | .arg1 => acceptOrDrop (fun s => { s with arg1 := v }) s
  | .id | .params | .status | .errcode | .result | .fcfg | .falpha | .forder | .groot | .glen | .feedcnt
  | .reserved38 | .reserved3C => s

/-- A legal read: the register's value, or an unspecified one while a command runs (R62, R206; log 4). -/
def readAccess (reg : WindowReg) (s : State) : State :=
  if s.busy && !reg.readableWhileBusy then
    { s with response := .readData (Config.unspecifiedRead s.draws), draws := s.draws + 1 }
  else
    { s with response := .readData (readWindow s reg) }

/-- A bus transaction. Without all four byte enables it is refused (R61; log 5). -/
def busAccess (a : BusAccess) (s : State) : Host.Outcome State Fault Refusal :=
  if a.be ≠ 0b1111 then .refused .illegalAccess
  else if a.we then .next { writeWindow (.ofAddr a.addr) a.wdata s with response := .written }
  else .next (readAccess (.ofAddr a.addr) s)

/-- One event (log 1). Hardware reset also abandons the running command (R200, R201). -/
def takeEvent (e : Event) (s : State) : Host.Outcome State Fault Refusal :=
  match e with
  | .access a => busAccess a s
  | .finish => finishCommand s
  | .hardReset => .next (resetBlock s)

/-- The first event happens. With no event left a running command still completes, because LATENCY is finite
(R210), and an idle block keeps its state (R194). Log 1, log 2. -/
def nextEvent (s : State) : Host.Outcome State Fault Refusal :=
  match s.events with
  | [] => finishCommand s
  | e :: rest => takeEvent e { s with events := rest }

/-- A command word accepted, with its completion the very next event (log 1). -/
def acceptWord (w : Word) (s : State) : State := { s with running := some w, events := .finish :: s.events }

/-- The output ports of R20: bus_ready and busy. bus_err is 1 only with a refused access (R195). -/
def busReady (s : State) : Bool := s.response ≠ .none
def busyPort (s : State) : Bool := s.busy

end Sys2Proof.Machine
end

