-- ==== Sys2Proof/Machine/Step.lean ====
section
/-! DEFINITION. The step, and how the host places one command where the next step runs it. -/

namespace Sys2Proof.Machine

/-- One step of the block: the next event (log 1). -/
def step (s : State) : Host.Outcome State Fault Refusal := nextEvent s

/-- `s` with the command whose low `nbits` bits are those of `w` accepted and about to complete (log 1). -/
def State.withFetchWord (s : State) (nbits w : Nat) : State := acceptWord (BitVec.ofNat 32 (w % 2 ^ nbits)) s

end Sys2Proof.Machine
end

