-- ==== Sys2Proof/Machine/HostScript.lean ====
section
/-! DEFINITION. The host statements and pseudo-instructions of rules R90 and R91 as the bus events they stand for. The
host's own control flow (labels, jif, host variables) does not exist in the block (R90); the one procedure that needs it, the
division of R162, is written over atomic commands (R205). -/

namespace Sys2Proof.Machine

/-- Commands one after the other, each an atomic step, in the order of their CMD writes (R69, R205). -/
def runCommands : List Instr → State → Host.Outcome State Fault Refusal
  | [], s => .next s
  | i :: rest, s =>
    match exec i s with
    | .next t => runCommands rest t
    | .fault f => .fault f
    | .refused r => .refused r

namespace HostScript

/-- `wr NAME, v` (R90): a full-word write. -/
def wr (reg : WindowReg) (v : Word) : Event := .access { we := true, addr := reg.addr, be := 0b1111, wdata := v }

/-- `rd NAME` (R90): a full-word read. -/
def rd (reg : WindowReg) : Event := .access { we := false, addr := reg.addr, be := 0b1111, wdata := 0 }

/-- A command, and then the host's wait until BUSY = 0 (R90, R204): here only the passing of LATENCY, the polls left
out. -/
def cmd (i : Instr) : List Event := [wr .cmd (encode i), .finish]

/-- `gf.cfgbin poly, b` (R91). -/
def gfCfgbin (poly : Nat) (b : Word) : List Event := wr .arg1 b :: cmd (.gfCfgbin poly)

/-- `gf.cfgprime p, g, b` (R91). -/
def gfCfgprime (p : Nat) (g b : Word) : List Event := wr .arg0 g :: wr .arg1 b :: cmd (.gfCfgprime p)

/-- `gf.mul a, c` (R91). -/
def gfMul (a c : Word) : List Event := wr .arg0 a :: wr .arg1 c :: cmd .gfMul

/-- `gf.add a, c` (R91). -/
def gfAdd (a c : Word) : List Event := wr .arg0 a :: wr .arg1 c :: cmd .gfAdd

/-- `gf.exp e` (R91). -/
def gfExp (e : Word) : List Event := wr .arg0 e :: cmd .gfExp

/-- `gf.log a` (R91). -/
def gfLog (a : Word) : List Event := wr .arg0 a :: cmd .gfLog

/-- `big.mov bd, ba` (R91): it writes C ← 0 and Z. -/
def bigMov (bd ba : BigReg) : List Event := cmd (.bigShl bd ba 0)

/-- `big.ld bd, v` (R91): four chunks, leaving ARG0 = v[111:96]. -/
def bigLd (bd : BigReg) (v : Big) : List Event :=
  (List.range 4).flatMap fun c => wr .arg0 (v.extractLsb' (32 * c) 32) :: cmd (.bigWr bd c)

/-- `big.lddec bd, "d_1…d_n"` (R91, R161). -/
def bigLddec (bd : BigReg) (digits : List Nat) : List Event :=
  cmd (.bigClr bd) ++ digits.flatMap fun d => cmd (.bigMul10a bd bd d)

/-- `rs.block k, s_0, …` (R91). -/
def rsBlock (k : Nat) (symbols : List Nat) : List Event :=
  cmd (.rsStart k) ++ symbols.flatMap fun d => cmd (.rsFeed d)

/-- Commands, and then what the host does in the state they leave. -/
def runThen {α : Type} (commands : List Instr) (s : State) (next : State → Host.Outcome α Fault Refusal) :
    Host.Outcome α Fault Refusal :=
  match runCommands commands s with
  | .next t => next t
  | .fault f => .fault f
  | .refused r => .refused r

/-- Step 1 of R162: while 2·B1 ≤ B0, double B1 and count. The first argument bounds the loop. -/
def align : Nat → Nat → State → Host.Outcome (State × Nat) Fault Refusal
  | 0, count, s => .next (s, count)
  | fuel + 1, count, s =>
    runThen [.bigShl .b3 .b1 1, .bigCmp .b3 .b0] s fun t =>
      if t.gt then .next (t, count) else runThen [.bigShl .b1 .b1 1] t (align fuel (count + 1))

/-- Step 2 of R162, for i down to 0: where B0 ≥ B1 (GT or EQ) subtract and append quotient bit 1, else append 0. -/
def subtractDown : Nat → Nat → State → Host.Outcome (State × Nat) Fault Refusal
  | 0, quotient, s =>
    runThen [.bigCmp .b0 .b1] s fun t =>
      runThen (if t.gt || t.eq then [.bigSub .b0 .b0 .b1] else []) t fun u =>
        .next (u, 2 * quotient + (t.gt || t.eq).toNat)
  | i + 1, quotient, s =>
    runThen [.bigCmp .b0 .b1] s fun t =>
      runThen (if t.gt || t.eq then [.bigSub .b0 .b0 .b1] else []) t fun u =>
        runThen [.bigShr .b1 .b1 1] u (subtractDown i (2 * quotient + (t.gt || t.eq).toNat))

/-- Division of B0 by B1 (R162; the loop runs at most 112 times): the state after it, with the remainder in B0, and the
quotient, which is the host's. -/
def divide (s : State) : Host.Outcome (State × Nat) Fault Refusal :=
  match align 112 0 s with
  | .next (t, count) => subtractDown count 0 t
  | .fault f => .fault f
  | .refused r => .refused r

end HostScript

end Sys2Proof.Machine
end

