-- ==== Sys2Proof/Safety.lean ====
section
/-! DEFINITION. The terms the claims are stated in: legal and compliant hosts, sequences of commands, the code as
mathematics (R130), and the invariants of the state (R36 to R41). -/

namespace Sys2Proof.Machine

/-- A legal event: a bus transaction has all four byte enables (R61). -/
def Event.legal : Event → Bool
  | .access a => a.be == 0b1111
  | .finish | .hardReset => true

/-- What a host that keeps the BUSY protocol may do while a command runs (R204): read ID, PARAMS, STATUS and ERRCODE,
and write any register but CMD, ARG0 and ARG1 (ignored as always, R206). -/
def Event.keepsBusyProtocol : Event → Bool
  | .access a =>
    a.be == 0b1111 &&
      if a.we then !(WindowReg.ofAddr a.addr == .cmd || WindowReg.ofAddr a.addr == .arg0 || WindowReg.ofAddr a.addr == .arg1)
      else (WindowReg.ofAddr a.addr).readableWhileBusy
  | .finish | .hardReset => false

/-- The window as the table of R21 lists it: the register at byte offset 4·i is entry i. -/
def windowTable : List WindowReg :=
  [.id, .params, .cmd, .status, .errcode, .arg0, .arg1, .result,
   .fcfg, .falpha, .forder, .groot, .glen, .feedcnt, .reserved38, .reserved3C]

/-- `n` steps (Host.Core.run of this machine). -/
def runSteps (n : Nat) (s : State) : Host.Outcome State Fault Refusal := Host.Core.run Sys2Proof.core n s

/-- `s` and `t` are the same block: they differ at most in the host's side (events to come, the last answer, the
draw counter; log 1, log 4, log 6). -/
def SameBlock (s t : State) : Prop :=
  t = { s with events := t.events, response := t.response, draws := t.draws }

/-- The commands that write C and Z, together (R41). -/
def writesCarryZero : Instr → Bool
  | .bigClr _ | .bigAdd _ _ _ | .bigSub _ _ _ | .bigShl _ _ _ | .bigShr _ _ _ | .bigMul10a _ _ _ => true
  | _ => false

/-- The command that writes GT and EQ, together (R41). -/
def writesCompare : Instr → Bool
  | .bigCmp _ _ => true
  | _ => false

/-- The commands that write RESULT when they succeed (R28). -/
def writesResult : Instr → Bool
  | .gfMul | .gfAdd | .gfExp | .gfLog | .rsRdpar _ | .rsRdgen _ | .bigRd _ _ => true
  | _ => false

/-- The big register a command may write (R40, 43_bigint.md). -/
def bigDest : Instr → Option BigReg
  | .bigWr rd _ | .bigClr rd | .bigAdd rd _ _ | .bigSub rd _ _ | .bigShl rd _ _ | .bigShr rd _ _
  | .bigMul10a rd _ _ => some rd
  | _ => none

/-- The two configure commands, which alone (with sreset) write the field state (R36). -/
def isConfigure : Instr → Bool
  | .gfCfgbin _ | .gfCfgprime _ => true
  | _ => false

/-- The commands that write k, G, R or FEEDCNT over a configured field (42_rs.md). -/
def writesEncoder : Instr → Bool
  | .rsStart _ | .rsFeed _ | .rsClear => true
  | _ => false

/-- An arithmetic command's effect: the value v in B[rd], C, Z = (v is zero), and nothing else changed (R150). -/
def BigResult (rd : BigReg) (v : Nat) (c : Bool) (s t : State) : Prop :=
  t = { s with big := t.big, c := c, z := decide (v = 0) } ∧ t.bigVal rd = v ∧ ∀ r, r ≠ rd → t.bigVal r = s.bigVal r

/-- A failed configure (R183): the code is latched, no field and no generator are left, the mirrors, GLEN and FEEDCNT
read 0, and nothing else changed. -/
def LeavesNoField (e : ErrorCode) (s t : State) : Prop :=
  t = { s with
        errcode := if s.errcode = .noError then e else s.errcode, fieldOk := false, field := t.field, log := t.log,
        alog := t.alog, genOk := false, k := t.k, g := t.g, r := t.r, feedcnt := t.feedcnt } ∧
  ∀ reg ∈ [WindowReg.fcfg, .falpha, .forder, .groot, .glen, .feedcnt], readWindow t reg = 0

/-- The table of R200. -/
def ResetTable (t : State) : Prop :=
  readWindow t .id = 0x52470007#32 ∧ readWindow t .params = 0x4C700000#32 ||| t.kMax.setWidth 32 ∧
  (∀ reg, reg ≠ .id → reg ≠ .params → readWindow t reg = 0) ∧ (∀ r, t.big.get r = 0) ∧
  t.c = false ∧ t.z = false ∧ t.gt = false ∧ t.eq = false ∧ t.fieldOk = false ∧ t.genOk = false ∧
  t.errcode = .noError ∧ t.running = none

/-- A command that starts a block of parity length k from a state where it succeeds: rs.start k, or rs.clear with a
live generator of degree k (R131, R136, R138). -/
def StartsBlock (i : Instr) (k : Nat) (s : State) : Prop :=
  (i = .rsStart k ∧ s.fieldOk = true ∧ 1 ≤ k ∧ k ≤ s.kMax.toNat) ∨ (i = .rsClear ∧ s.genOk = true ∧ s.kVal = k)

namespace FieldCfg

/-- The record is that of some BIN(poly) or PRIME(p, g), with b in range (R7, R36). -/
def Shape (F : FieldCfg) : Prop :=
  F.b.toNat < F.N ∧
  match F.kind with
  | .bin => 2 ≤ F.m.toNat ∧ F.m.toNat ≤ 12 ∧ 2 ^ F.m.toNat ≤ F.fmod.toNat ∧ F.fmod.toNat < 2 ^ (F.m.toNat + 1) ∧
      F.alpha = 2 ∧ F.N = 2 ^ F.m.toNat - 1
  | .prime => 3 ≤ F.fmod.toNat ∧ F.fmod.toNat ≤ 4095 ∧ F.m = 0 ∧ F.alpha.toNat < F.fmod.toNat ∧
      F.N = F.fmod.toNat - 1

/-- `ok(F)`: α has multiplicative order exactly N (R113). -/
def AlphaHasOrderN (F : FieldCfg) : Prop := F.exp F.N = 1 ∧ ∀ e, 0 < e → e < F.N → F.exp e ≠ 1

/-- A validly configured field (R36, R113). -/
def Valid (F : FieldCfg) : Prop := F.Shape ∧ F.AlphaHasOrderN

/-- The sum of two polynomials, the coefficient of x^0 first (R9). -/
def polyAdd (F : FieldCfg) : List Nat → List Nat → List Nat
  | [], q => q
  | p, [] => p
  | a :: p, b :: q => F.add a b :: polyAdd F p q

/-- The product of two polynomials (R9). -/
def polyMul (F : FieldCfg) : List Nat → List Nat → List Nat
  | [], _ => []
  | a :: p, q => F.polyAdd (q.map (F.mul a)) (0 :: polyMul F p q)

/-- ∏_{i<k} (x − α^(b+i)) as a product of polynomials (R130), with no in-place loop. -/
def rootProduct (F : FieldCfg) : Nat → List Nat
  | 0 => [1]
  | k + 1 => F.polyMul (rootProduct F k) [F.neg (F.exp (F.b.toNat + k)), 1]

/-- D(x)·x^k, the coefficient of x^0 first, for symbols fed highest degree first (R9, R130). -/
def paddedData (k : Nat) (data : List Nat) : List Nat := List.replicate k 0 ++ data.reverse

/-- Horner's rule over the symbols of a codeword in order (R139). -/
def horner (F : FieldCfg) (x : Nat) (symbols : List Nat) : Nat :=
  symbols.foldl (fun acc c => F.add (F.mul acc x) c) 0

end FieldCfg

/-- P[0..k−1]: the reversed, negated remainder (R130, R134). -/
def parity (s : State) : List Nat := (List.range s.kVal).map fun i => s.field.neg (entry s.r (s.kVal - 1 - i))

/-- What holds whether or not a field or a generator is live: K_MAX is at least 1 (R4), GT = EQ = 1 never occurs (R41),
GEN_OK implies FIELD_OK (R39), and the field record, k and FEEDCNT are 0 while not live (R36, R38). -/
structure FlagsInv (s : State) : Prop where
  kMaxPos : 1 ≤ s.kMax.toNat
  notGtEq : ¬(s.gt = true ∧ s.eq = true)
  genHasField : s.genOk = true → s.fieldOk = true
  noField : s.fieldOk = false → s.field = .zero
  noGen : s.genOk = false → s.k = 0 ∧ s.feedcnt = 0

/-- The fixed sizes of the internal stores (R44, R74). -/
structure StoreSizes (s : State) : Prop where
  log : s.log.length = 4096
  alog : s.alog.length = 4095
  g : s.g.length = s.kMax.toNat + 1
  r : s.r.length = s.kMax.toNat

/-- The stores' sizes, and the field state while FIELD_OK = 1 (R36, R37, R113): the field is valid, ALOG[e] = fexp(e), LOG[a] = flog(a). -/
structure FieldInv (s : State) : Prop where
  sizes : StoreSizes s
  valid : s.fieldOk = true → s.field.Valid
  alog : s.fieldOk = true → ∀ e, e < s.field.N → entry s.alog e = s.field.exp e
  log : s.fieldOk = true → ∀ a, 1 ≤ a → a < s.field.q → entry s.log a < s.field.N ∧ s.field.exp (entry s.log a) = a

/-- The stores' sizes, and the encoder state while GEN_OK = 1 (R38, R39): k in range, G[0..k] the generator with leading
coefficient 1, R[0..k−1] elements. -/
structure GenInv (s : State) : Prop where
  sizes : StoreSizes s
  genHasField : s.genOk = true → s.fieldOk = true
  kRange : s.genOk = true → 1 ≤ s.kVal ∧ s.kVal ≤ s.kMax.toNat
  gen : s.genOk = true → s.genCoeffs = s.field.rootProduct s.kVal
  genLength : s.genOk = true → s.genCoeffs.length = s.kVal + 1
  monic : s.genOk = true → entry s.g s.kVal = 1
  remLength : s.genOk = true → s.remCoeffs.length = s.kVal
  remElems : s.genOk = true → ∀ x ∈ s.remCoeffs, x < s.field.q

end Sys2Proof.Machine
end

