-- ==== Sys2Proof/Certificates/Slice0/Obligations.lean ====
section
/-! DEFINITION. The statements about the block. Each docstring names the rule it formalises. "Latched" is `latch`:
sticky-first (R182), itself the subject of `LatchKeepsTheFirstCode`. -/

open Sys2Proof Sys2Proof.Machine

/-! Encoding -/

/-- R92: decoding the word of a command the syntax accepts gives the command back. -/
def Obligations.DecodeOfEncodeIsTheCommand : Prop :=
  ∀ i : Instr, i.wf = true → decode (encode i) = .ok i

/-- R80 to R85 read backwards: a word has at most one meaning, and every bit of it is accounted for. -/
def Obligations.EncodeOfDecodeIsTheWord : Prop :=
  ∀ (w : Word) (i : Instr), decode w = .ok i → i.wf = true ∧ encode i = w

/-- R80, R81, R86: a word either matches exactly one row of the table as printed and executes that row's command,
or matches none and only latches ILLEGAL. -/
def Obligations.WordsExecuteByTheirTableRow : Prop :=
  ∀ (w : Word) (s : State),
    (∃ i row, decode w = .ok i ∧ opcodeTable.filter (·.matchesWord w) = [row] ∧ row.mnemonic = i.mnemonic ∧
      execWord w s = exec i s) ∨
    (opcodeTable.filter (·.matchesWord w) = [] ∧
      execWord w s = .next { s with errcode := if s.errcode = .noError then .illegal else s.errcode })

/-- The example words of R89 and L2.1, written from the encodings. -/
def Obligations.WordsOfTheSpecDecode : Prop :=
  decode 0x12000000#32 = .ok .gfMul ∧ decode 0x2000000A#32 = .ok (.rsStart 10) ∧
  decode 0x21000020#32 = .ok (.rsFeed 0x20) ∧ decode 0x30100000#32 = .ok (.bigWr .b1 0) ∧
  decode 0x31000001#32 = .ok (.bigRd .b0 1) ∧ decode 0x32100000#32 = .ok (.bigClr .b1) ∧
  decode 0x34010000#32 = .ok (.bigSub .b0 .b0 .b1) ∧ decode 0x350C0000#32 = .ok (.bigCmp .b3 .b0) ∧
  decode 0x36340001#32 = .ok (.bigShl .b3 .b1 1) ∧ decode 0x38000007#32 = .ok (.bigMul10a .b0 .b0 7) ∧
  decode 0x10002000#32 = .error (.mustBeZero 0x10) ∧ decode 0x7F000000#32 = .error (.unassignedOpcode 0x7F)

/-! The step, the bus and reset -/

/-- R80, R204, R205: when the running command's completion comes, the step is exec of the decoded command with BUSY
fallen; a word that decodes to none only latches ILLEGAL. The completion is the `finish` event, or any step with no
event left (the model's choice, log 1 and log 2). -/
def Obligations.StepRunsTheDecodedCommand : Prop :=
  ∀ (s : State) (w : Word) (rest : List Event), s.running = some w →
    (s.events = .finish :: rest ∨ (s.events = [] ∧ rest = [])) →
    (∀ i, decode w = .ok i → step s = exec i { s with running := none, events := rest }) ∧
    (∀ e, decode w = .error e → step s = .next (latch .illegal { s with running := none, events := rest }))

/-- The word the host's interface places is the one the next step executes (the model's interface, log 1). -/
def Obligations.PlacedWordRunsInTheNextStep : Prop :=
  ∀ (s : State) (w : Nat), s.running = none → w < 2 ^ 32 →
    step (s.withFetchWord 32 w) = execWord (BitVec.ofNat 32 w) s

/-- R205: a host that keeps R204 while a command runs (its accesses may be reads of ID, PARAMS, STATUS and ERRCODE and
writes of any register but CMD, ARG0 and ARG1) sees the block unchanged until the command completes, and then exactly
`exec(w, state)`. -/
def Obligations.CompliantHostSeesAtomicCommands : Prop :=
  ∀ (s : State) (w : Word) (a : BusAccess) (allowed rest : List Event), s.running = none →
    a = { we := true, addr := 2, be := 0b1111, wdata := w } → (∀ e ∈ allowed, e.keepsBusyProtocol = true) →
    s.events = .access a :: (allowed ++ .finish :: rest) →
    (∀ j, j ≤ allowed.length → ∃ v, runSteps (j + 1) s = .next v ∧ SameBlock { s with running := some w } v) ∧
    ∃ t u, runSteps (allowed.length + 2) s = .next t ∧ execWord w s = .next u ∧ SameBlock u t ∧ t.events = rest

/-- R206, R21: accesses while a command runs, by word index (offset / 4). Writes of CMD, ARG0 and ARG1 (2, 5, 6) are
dropped and latch BUSY, other writes do nothing, ID, PARAMS, STATUS and ERRCODE (0, 1, 3, 4) read as they are, and any
other read returns some value and changes nothing. -/
def Obligations.AccessesWhileBusy : Prop :=
  ∀ (s : State) (w : Word) (a : BusAccess) (rest : List Event), s.running = some w → a.be = 0b1111 →
    s.events = .access a :: rest →
    (a.we = true →
      step s = .next { s with
        errcode :=
          if (a.addr = 2 ∨ a.addr = 5 ∨ a.addr = 6) ∧ s.errcode = .noError then .busy
          else s.errcode
        events := rest, response := .written }) ∧
    (a.we = false → ∀ reg, (a.addr.toNat, reg) ∈ [(0, WindowReg.id), (1, .params), (3, .status), (4, .errcode)] →
      step s = .next { s with events := rest, response := .readData (readWindow s reg) }) ∧
    (a.we = false → a.addr.toNat ∉ [0, 1, 3, 4] →
      ∃ v, step s = .next { s with events := rest, response := .readData v, draws := s.draws + 1 })

/-- R65, R21, R24, R27: accesses while no command runs, by word index (offset / 4). A write acts
on CMD (2: the word is accepted and BUSY rises; that it is executed in a later step is log 1), ARG0 (5) or ARG1 (6) only; a
read returns the register that the table of R21 lists there, and changes nothing. -/
def Obligations.AccessesWhileIdle : Prop :=
  ∀ (s : State) (a : BusAccess) (rest : List Event), s.running = none → a.be = 0b1111 →
    s.events = .access a :: rest →
    (a.we = true →
      step s = .next { s with
        arg0 := if a.addr = 5 then a.wdata else s.arg0
        arg1 := if a.addr = 6 then a.wdata else s.arg1
        running := if a.addr = 2 then some a.wdata else none
        events := rest, response := .written }) ∧
    (a.we = false → ∃ reg, windowTable[a.addr.toNat]? = some reg ∧
      step s = .next { s with events := rest, response := .readData (readWindow s reg) })

/-- R61, R195: an access without all four byte enables is refused. -/
def Obligations.IllegalAccessIsRefused : Prop :=
  ∀ (s : State) (a : BusAccess) (rest : List Event), s.events = .access a :: rest → a.be ≠ 0b1111 →
    step s = .refused .illegalAccess

/-- R194: with nothing happening an idle block keeps its state. -/
def Obligations.IdleBlockKeepsItsState : Prop :=
  ∀ s : State, s.running = none → s.events = [] → step s = .next s

/-- R200, R102, R201: the state after reset, sreset and hardware reset (also in the middle of a command) reads as the
table of R200; K_MAX and what the host does next stay. -/
def Obligations.ResetsReachTheResetTable : Prop :=
  ResetTable State.reset ∧
  (∀ s, ∃ t, exec .sreset s = .next t ∧ ResetTable t ∧ t.kMax = s.kMax ∧ t.events = s.events) ∧
  (∀ s rest, s.events = .hardReset :: rest →
    ∃ t, step s = .next t ∧ ResetTable t ∧ t.kMax = s.kMax ∧ t.events = rest)

/-- R25: the bits of STATUS. -/
def Obligations.StatusBitsAreViews : Prop :=
  ∀ (s : State) (i : Nat), (readWindow s .status).getLsbD i =
    match i with
    | 0 => s.running.isSome
    | 1 => s.fieldOk
    | 2 => s.genOk
    | 3 => decide (s.errcode ≠ .noError)
    | 4 => s.c
    | 5 => s.z
    | 6 => s.gt
    | 7 => s.eq
    | _ => false

/-- R22, R23, R24, R35: the constants, the write-only CMD and the reserved offsets. -/
def Obligations.ConstantRegistersRead : Prop :=
  ∀ s : State, readWindow s .id = 0x52470007#32 ∧
    bits (readWindow s .params) 12 0 = s.kMax.toNat ∧ bits (readWindow s .params) 15 13 = 0 ∧
    bits (readWindow s .params) 22 16 = 112 ∧ bits (readWindow s .params) 23 23 = 0 ∧
    bits (readWindow s .params) 27 24 = 12 ∧ bits (readWindow s .params) 31 28 = 4 ∧
    readWindow s .cmd = 0 ∧ readWindow s .reserved38 = 0 ∧ readWindow s .reserved3C = 0

/-- R26, R181, R27, R28, R34: ERRCODE reads the number of the latched code in bits 7:0 and 0 above, ARG0, ARG1 and RESULT
read all 32 bits they hold, and FEEDCNT the count. -/
def Obligations.ValueRegistersRead : Prop :=
  ∀ s : State, bits (readWindow s .errcode) 31 8 = 0 ∧
    bits (readWindow s .errcode) 7 0 =
      (match s.errcode with
      | .noError => 0x00
      | .illegal => 0x01
      | .noField => 0x02
      | .badPoly => 0x03
      | .badPrime => 0x04
      | .noGen => 0x05
      | .range => 0x06
      | .logZero => 0x07
      | .busy => 0x08) ∧
    readWindow s .arg0 = s.arg0 ∧ readWindow s .arg1 = s.arg1 ∧ readWindow s .result = s.result ∧
    readWindow s .feedcnt = s.feedcnt

/-- R29 to R33: the mirrors show the configured field and the live degree, and read 0 otherwise. -/
def Obligations.MirrorsShowTheField : Prop :=
  ∀ s : State, FieldInv s →
    (s.fieldOk = true →
      bits (readWindow s .fcfg) 12 0 = s.field.fmod.toNat ∧
      bits (readWindow s .fcfg) 13 13 = (if s.field.kind = .prime then 1 else 0) ∧
      bits (readWindow s .fcfg) 15 14 = 0 ∧
      bits (readWindow s .fcfg) 19 16 = (if s.field.kind = .prime then 0 else s.field.m.toNat) ∧
      bits (readWindow s .fcfg) 31 20 = 0 ∧
      (readWindow s .falpha).toNat = (if s.field.kind = .prime then s.field.alpha.toNat else 2) ∧
      (readWindow s .forder).toNat = s.field.q - 1 ∧
      (readWindow s .groot).toNat = s.field.b.toNat) ∧
    (s.fieldOk = false → ∀ reg ∈ [WindowReg.fcfg, .falpha, .forder, .groot], readWindow s reg = 0) ∧
    (readWindow s .glen).toNat = (if s.genOk then s.kVal else 0)

/-! Rules about every command and every step -/

/-- R180, R187: no command stops the block. -/
def Obligations.EveryCommandAnswersANextState : Prop :=
  ∀ (i : Instr) (s : State), ∃ t, exec i s = .next t

/-- R180, R61: a step answers a next state unless the host makes an illegal access, which is refused. -/
def Obligations.StepStopsOnlyOnAnIllegalAccess : Prop :=
  ∀ s : State, (∃ t, step s = .next t) ∨
    (∃ a rest, s.events = .access a :: rest ∧ a.be ≠ 0b1111 ∧ step s = .refused .illegalAccess)

/-- R182: the latch. -/
def Obligations.LatchKeepsTheFirstCode : Prop :=
  ∀ (e e' : ErrorCode) (s : State), e ≠ .noError →
    (s.errcode = .noError → latch e s = { s with errcode := e }) ∧
    (s.errcode ≠ .noError → latch e s = s) ∧ latch e' (latch e s) = latch e s

/-- R182: in any step ERRCODE keeps a latched code, or goes back to 0 through the completion of clrerr or sreset, or
hardware reset. -/
def Obligations.ErrcodeIsStickyFirst : Prop :=
  ∀ s t : State, step s = .next t → s.errcode ≠ .noError →
    t.errcode = s.errcode ∨
    (t.errcode = .noError ∧
      (s.events.head? = some .hardReset ∨
        ((s.events = [] ∨ s.events.head? = some .finish) ∧
          ∃ w, s.running = some w ∧ (decode w = .ok .clrerr ∨ decode w = .ok .sreset))))

/-- R183: a command that latches a code changes nothing else, but for a failed configure, which leaves no field. -/
def Obligations.FailedCommandOnlyLatches : Prop :=
  ∀ (i : Instr) (s t : State), exec i s = .next t → s.errcode = .noError → t.errcode ≠ .noError →
    if isConfigure i then LeavesNoField t.errcode s t else t = { s with errcode := t.errcode }

/-- R180: "the next accepted command executes normally, whatever ERRCODE holds". -/
def Obligations.ErrcodeDoesNotInfluenceCommands : Prop :=
  ∀ (i : Instr) (s t : State) (e : ErrorCode), exec i s = .next t →
    ∃ u, exec i { s with errcode := e } = .next u ∧ u = { t with errcode := u.errcode }

/-- R41: no command reads a flag. -/
def Obligations.FlagsAreNeverRead : Prop :=
  ∀ (i : Instr) (s t : State) (c z gt eq : Bool), exec i s = .next t →
    ∃ u, exec i { s with c := c, z := z, gt := gt, eq := eq } = .next u ∧
      u = { t with c := u.c, z := u.z, gt := u.gt, eq := u.eq } ∧
      ((u.c = t.c ∧ u.z = t.z) ∨ (u.c = c ∧ u.z = z ∧ t.c = s.c ∧ t.z = s.z)) ∧
      ((u.gt = t.gt ∧ u.eq = t.eq) ∨ (u.gt = gt ∧ u.eq = eq ∧ t.gt = s.gt ∧ t.eq = s.eq))

/-- R41: C and Z are written by the six arithmetic commands only, GT and EQ by big.cmp only (and all four by
sreset). -/
def Obligations.FlagsWrittenOnlyByTheirCommands : Prop :=
  ∀ (i : Instr) (s t : State), exec i s = .next t → i ≠ .sreset →
    (writesCarryZero i = false → t.c = s.c ∧ t.z = s.z) ∧
    (writesCompare i = false → t.gt = s.gt ∧ t.eq = s.eq)

/-- R27, R28, R36, R38, R40: every register and store is written only by the commands the rules name (and by
sreset). -/
def Obligations.RegistersWrittenOnlyByTheirCommands : Prop :=
  ∀ (i : Instr) (s t : State), exec i s = .next t → i ≠ .sreset →
    t.arg0 = s.arg0 ∧ t.arg1 = s.arg1 ∧ t.running = s.running ∧ t.kMax = s.kMax ∧ t.events = s.events ∧
    t.response = s.response ∧ t.draws = s.draws ∧
    (writesResult i = false → t.result = s.result) ∧
    (∀ r, bigDest i ≠ some r → t.big.get r = s.big.get r) ∧
    (isConfigure i = false → t.fieldOk = s.fieldOk ∧ t.field = s.field ∧ t.log = s.log ∧ t.alog = s.alog) ∧
    (isConfigure i = false → writesEncoder i = false →
      t.genOk = s.genOk ∧ t.k = s.k ∧ t.g = s.g ∧ t.r = s.r ∧ t.feedcnt = s.feedcnt)

/-! Invariants -/

/-- The invariants hold after reset (R200, R36 to R41). That the field record, k and FEEDCNT are 0 while not live is, for
the record and k, the model's choice (log 7). -/
def Obligations.ResetMeetsTheInvariants : Prop :=
  FlagsInv State.reset ∧ FieldInv State.reset ∧ GenInv State.reset

/-- R4, R36, R38, R39, R41: every step keeps K_MAX ≥ 1, GT and EQ never both 1, GEN_OK implies FIELD_OK, and the
zeros of what is not live (of the field record and k the model's choice, log 7). -/
def Obligations.StepKeepsFlagsInvariant : Prop :=
  ∀ s t : State, FlagsInv s → step s = .next t → FlagsInv t

/-- R36, R37, R113: every step keeps a configured field valid and its tables equal to fexp and flog. -/
def Obligations.StepKeepsFieldTables : Prop :=
  ∀ s t : State, FieldInv s → step s = .next t → FieldInv t

/-- R39: every step keeps the generator and remainder over the currently configured field. -/
def Obligations.StepKeepsTheGenerator : Prop :=
  ∀ s t : State, FieldInv s → GenInv s → step s = .next t → GenInv t

/-- R4, R44: K_MAX is a parameter; no step changes it. -/
def Obligations.StepKeepsKMax : Prop :=
  ∀ s t : State, step s = .next t → t.kMax = s.kMax

/-- R74: the internal stores are fixed in size; every step keeps LOG at 4096, ALOG at 4095, G at K_MAX + 1 and R at
K_MAX entries. -/
def Obligations.StepKeepsTheStoreSizes : Prop :=
  ∀ s t : State, StoreSizes s → step s = .next t → StoreSizes t

/-- R74, R4: every index of a live table, generator or remainder lies inside its store. -/
def Obligations.LiveEntriesFitTheStores : Prop :=
  ∀ s : State,
    (FieldInv s → s.fieldOk = true → s.field.q ≤ s.log.length ∧ s.field.N ≤ s.alog.length) ∧
    (GenInv s → s.genOk = true → s.kVal + 1 ≤ s.g.length ∧ s.kVal ≤ s.r.length)

/-! The field (R8, R113, R116, R121) -/

/-- R113, R114: the one-pass table build computes whether α has order exactly N. -/
def Obligations.TableBuildTestsTheOrderOfAlpha : Prop :=
  ∀ F : FieldCfg, F.Shape → ((buildTables F).ok = true ↔ F.AlphaHasOrderN)

/-- R112, R113: gf.cfgprime succeeds exactly for a prime p in range with g a primitive root modulo p and b in
range. -/
def Obligations.PrimeConfigureAcceptsExactlyPrimitiveRoots : Prop :=
  ∀ (p : Nat) (s : State), p < 8192 →
    ∃ t, exec (.gfCfgprime p) s = .next t ∧
      (t.fieldOk = true ↔
        3 ≤ p ∧ p ≤ 4095 ∧ p.Prime ∧ s.a0 < p ∧ orderOf (s.a0 : ZMod p) = p - 1 ∧ s.a1 ≤ p - 2)

/-- R116: for a configured field the table method and the arithmetic agree. -/
def Obligations.TableMethodAgreesWithArithmetic : Prop :=
  ∀ (s : State) (a c : Nat), FieldInv s → s.fieldOk = true → a < s.field.q → c < s.field.q →
    s.field.mul a c =
      (if a = 0 ∨ c = 0 then 0 else entry s.alog ((entry s.log a + entry s.log c) % s.field.N)) ∧
    (∀ e, s.field.exp e = entry s.alog (e % s.field.N)) ∧
    (a ≠ 0 → ∀ e, e < s.field.N → (s.field.exp e = a ↔ e = entry s.log a))

/-- R121: the field laws. -/
def Obligations.FieldLawsHold : Prop :=
  ∀ (s : State) (a c d : Nat), FieldInv s → s.fieldOk = true →
    a < s.field.q → c < s.field.q → d < s.field.q →
    s.field.add a c = s.field.add c a ∧ s.field.add (s.field.add a c) d = s.field.add a (s.field.add c d) ∧
    s.field.mul a c = s.field.mul c a ∧ s.field.mul (s.field.mul a c) d = s.field.mul a (s.field.mul c d) ∧
    s.field.mul a (s.field.add c d) = s.field.add (s.field.mul a c) (s.field.mul a d) ∧
    s.field.add a 0 = a ∧ s.field.mul a 1 = a ∧
    (a ≠ 0 → ∀ x, x < s.field.q →
      (s.field.mul a x = 1 ↔ x = entry s.alog ((s.field.N - entry s.log a) % s.field.N))) ∧
    ∀ e1 e2, s.field.exp (e1 + e2) = s.field.mul (s.field.exp e1) (s.field.exp e2)

/-! The code (R130 to R140) -/

/-- R132, R130: the in-place loop computes the product of the root factors, monic of degree k. -/
def Obligations.GeneratorIsTheProductOfItsRoots : Prop :=
  ∀ (F : FieldCfg) (k : Nat), F.Valid →
    F.buildGen k = F.rootProduct k ∧ (F.buildGen k).length = k + 1 ∧ (F.buildGen k).getD k 0 = 1

/-- R138: after rs.start or rs.clear and feeds of elements, the remainder store is (D(x)·x^k) mod g(x), and rs.rdpar
reads its negated coefficients from the top. -/
def Obligations.RemainderIsTheDivisionRemainder : Prop :=
  ∀ (s : State) (i : Instr) (k : Nat) (data : List Nat), FieldInv s → GenInv s → StartsBlock i k s →
    (∀ d ∈ data, d < s.field.q) →
    ∃ t quotient, runCommands (i :: data.map .rsFeed) s = .next t ∧ t.errcode = s.errcode ∧ t.genOk = true ∧
      t.kVal = k ∧ t.feedcnt = BitVec.ofNat 32 data.length ∧
      t.genCoeffs = s.field.rootProduct k ∧ t.remCoeffs.length = k ∧ quotient.length = data.length ∧
      s.field.polyAdd (s.field.polyMul quotient t.genCoeffs) t.remCoeffs = FieldCfg.paddedData k data ∧
      ∀ j, j < k → exec (.rsRdpar j) t =
        .next { t with result := BitVec.ofNat 32 (s.field.neg (entry t.r (k - 1 - j))) }

/-- R139: the codeword, data then parity, is a multiple of g(x) (the k zeros only say its length when there are no data)
and is zero at every root α^(b+j), for any length and any k. -/
def Obligations.CodewordLiesOnTheLocus : Prop :=
  ∀ (s : State) (i : Instr) (k : Nat) (data : List Nat), FieldInv s → GenInv s → StartsBlock i k s →
    (∀ d ∈ data, d < s.field.q) →
    ∃ t quotient, runCommands (i :: data.map .rsFeed) s = .next t ∧ (parity t).length = k ∧
      s.field.polyAdd (s.field.polyMul quotient (s.field.rootProduct k)) (List.replicate k 0) =
        (data ++ parity t).reverse ∧
      ∀ j, j < k → s.field.horner (s.field.exp (s.field.b.toNat + j)) (data ++ parity t) = 0

/-- R140 (b), (c), (d): the parity is linear in the data, leading zeros do not change it, and zero data give zero
parity. -/
def Obligations.EncoderIsLinear : Prop :=
  ∀ (s : State) (i : Instr) (k c n : Nat) (data data' : List Nat), FieldInv s → GenInv s → StartsBlock i k s →
    (∀ d ∈ data, d < s.field.q) → (∀ d ∈ data', d < s.field.q) → data.length = data'.length → c < s.field.q →
    ∃ t t' sum scaled padded zeros,
      runCommands (i :: data.map .rsFeed) s = .next t ∧
      runCommands (i :: data'.map .rsFeed) s = .next t' ∧
      runCommands (i :: (List.zipWith s.field.add data data').map .rsFeed) s = .next sum ∧
      runCommands (i :: (data.map (s.field.mul c)).map .rsFeed) s = .next scaled ∧
      runCommands (i :: (List.replicate n 0 ++ data).map .rsFeed) s = .next padded ∧
      runCommands (i :: (List.replicate n 0).map .rsFeed) s = .next zeros ∧
      parity sum = List.zipWith s.field.add (parity t) (parity t') ∧
      parity scaled = (parity t).map (s.field.mul c) ∧ parity padded = parity t ∧
      parity zeros = List.replicate k 0

/-! Each command's own effect -/

/-- R100, R101: nop changes nothing, clrerr clears the latch and nothing else. -/
def Obligations.NopAndClrerr : Prop :=
  ∀ s : State, exec .nop s = .next s ∧ exec .clrerr s = .next { s with errcode := .noError }

/-- R111: gf.cfgbin, its checks in order, and the field it configures. -/
def Obligations.CfgbinConfigures : Prop :=
  ∀ (poly : Nat) (s : State), StoreSizes s → poly < 8192 →
    ∃ t, exec (.gfCfgbin poly) s = .next t ∧
      (poly < 4 → LeavesNoField .badPoly s t) ∧
      (4 ≤ poly → 2 ^ poly.log2 - 2 < s.a1 → LeavesNoField .range s t) ∧
      (4 ≤ poly → s.a1 ≤ 2 ^ poly.log2 - 2 → ¬(binField poly s.a1).AlphaHasOrderN → LeavesNoField .badPoly s t) ∧
      (4 ≤ poly → s.a1 ≤ 2 ^ poly.log2 - 2 → (binField poly s.a1).AlphaHasOrderN →
        t = { s with
              fieldOk := true, field := t.field, log := t.log, alog := t.alog, genOk := false, k := t.k, g := t.g,
              r := t.r, feedcnt := 0 } ∧
        t.field.kind = .bin ∧ t.field.fmod.toNat = poly ∧ t.field.m.toNat = poly.log2 ∧ t.field.alpha = 2 ∧
        t.field.N = 2 ^ poly.log2 - 1 ∧ t.field.b.toNat = s.a1 ∧ FieldInv t)

/-- R112: gf.cfgprime, its checks in order (R184), and the field it configures. -/
def Obligations.CfgprimeConfigures : Prop :=
  ∀ (p : Nat) (s : State), StoreSizes s → p < 8192 →
    ∃ t, exec (.gfCfgprime p) s = .next t ∧
      (p < 3 ∨ 4095 < p → LeavesNoField .badPrime s t) ∧
      (3 ≤ p → p ≤ 4095 → p ≤ s.a0 → LeavesNoField .range s t) ∧
      (3 ≤ p → p ≤ 4095 → s.a0 < p → p - 2 < s.a1 → LeavesNoField .range s t) ∧
      (3 ≤ p → p ≤ 4095 → s.a0 < p → s.a1 ≤ p - 2 → ¬(primeField p s.a0 s.a1).AlphaHasOrderN →
        LeavesNoField .badPrime s t) ∧
      (3 ≤ p → p ≤ 4095 → s.a0 < p → s.a1 ≤ p - 2 → (primeField p s.a0 s.a1).AlphaHasOrderN →
        t = { s with
              fieldOk := true, field := t.field, log := t.log, alog := t.alog, genOk := false, k := t.k, g := t.g,
              r := t.r, feedcnt := 0 } ∧
        t.field.kind = .prime ∧ t.field.fmod.toNat = p ∧ t.field.m = 0 ∧ t.field.alpha.toNat = s.a0 ∧
        t.field.N = p - 1 ∧ t.field.b.toNat = s.a1 ∧ FieldInv t)

/-- R117, R118: gf.mul and gf.add, their checks in order, and the element in RESULT. -/
def Obligations.MulAndAddOnElements : Prop :=
  ∀ s : State, FieldInv s →
    (s.fieldOk = false → exec .gfMul s = .next (latch .noField s) ∧ exec .gfAdd s = .next (latch .noField s)) ∧
    (s.fieldOk = true → s.field.q ≤ s.a0 ∨ s.field.q ≤ s.a1 →
      exec .gfMul s = .next (latch .range s) ∧ exec .gfAdd s = .next (latch .range s)) ∧
    (s.fieldOk = true → s.a0 < s.field.q → s.a1 < s.field.q →
      (∃ t, exec .gfMul s = .next t ∧ t = { s with result := t.result } ∧
        t.result.toNat = s.field.mul s.a0 s.a1 ∧ t.result.toNat < s.field.q) ∧
      (∃ t, exec .gfAdd s = .next t ∧ t = { s with result := t.result } ∧
        t.result.toNat = s.field.add s.a0 s.a1 ∧ t.result.toNat < s.field.q))

/-- R119, R120: gf.exp gives fexp(ARG0) for every exponent; gf.log gives the exponent of a nonzero element, RANGE
before LOG_ZERO. -/
def Obligations.ExpAndLogReadTheTables : Prop :=
  ∀ s : State, FieldInv s →
    (s.fieldOk = false → exec .gfExp s = .next (latch .noField s) ∧ exec .gfLog s = .next (latch .noField s)) ∧
    (s.fieldOk = true →
      (∃ t, exec .gfExp s = .next t ∧ t = { s with result := t.result } ∧ t.result.toNat = s.field.exp s.a0) ∧
      (s.field.q ≤ s.a0 → exec .gfLog s = .next (latch .range s)) ∧
      (s.a0 = 0 → exec .gfLog s = .next (latch .logZero s)) ∧
      (0 < s.a0 → s.a0 < s.field.q →
        ∃ t, exec .gfLog s = .next t ∧ t = { s with result := t.result } ∧ t.result.toNat < s.field.N ∧
          s.field.exp t.result.toNat = s.a0))

/-- R131: rs.start, its checks in order, the generator it builds and the zero remainder. -/
def Obligations.StartBuildsTheGenerator : Prop :=
  ∀ (k : Nat) (s : State), FieldInv s →
    (s.fieldOk = false → exec (.rsStart k) s = .next (latch .noField s)) ∧
    (s.fieldOk = true → k < 1 ∨ s.kMax.toNat < k → exec (.rsStart k) s = .next (latch .range s)) ∧
    (s.fieldOk = true → 1 ≤ k → k ≤ s.kMax.toNat →
      ∃ t, exec (.rsStart k) s = .next t ∧
        t = { s with genOk := true, k := t.k, g := t.g, r := t.r, feedcnt := 0 } ∧
        t.kVal = k ∧ t.genCoeffs = s.field.rootProduct k ∧ t.remCoeffs = List.replicate k 0)

/-- R133: rs.feed, its checks in order, and one step of the division, every right-hand side reading the old R. -/
def Obligations.FeedDividesOneStep : Prop :=
  ∀ (d : Nat) (s : State), FieldInv s → GenInv s →
    (s.genOk = false → exec (.rsFeed d) s = .next (latch .noGen s)) ∧
    (s.genOk = true → s.field.q ≤ d → exec (.rsFeed d) s = .next (latch .range s)) ∧
    (s.genOk = true → d < s.field.q →
      ∃ t, exec (.rsFeed d) s = .next t ∧ t = { s with r := t.r, feedcnt := s.feedcnt + 1 } ∧
        t.r.length = s.r.length ∧ (∀ j, s.kVal ≤ j → entry t.r j = entry s.r j) ∧
        entry t.r 0 = s.field.neg (s.field.mul (s.field.add d (entry s.r (s.kVal - 1))) (entry s.g 0)) ∧
        ∀ j, 1 ≤ j → j < s.kVal →
          entry t.r j = s.field.sub (entry s.r (j - 1))
            (s.field.mul (s.field.add d (entry s.r (s.kVal - 1))) (entry s.g j)))

/-- R134, R135, R136: rs.rdpar, rs.rdgen and rs.clear. -/
def Obligations.ReadAndClearTheEncoder : Prop :=
  ∀ (i : Nat) (s : State), FieldInv s → GenInv s →
    (s.genOk = false → exec (.rsRdpar i) s = .next (latch .noGen s) ∧ exec (.rsRdgen i) s = .next (latch .noGen s) ∧
      exec .rsClear s = .next (latch .noGen s)) ∧
    (s.genOk = true →
      (s.kVal ≤ i → exec (.rsRdpar i) s = .next (latch .range s)) ∧
      (i < s.kVal → ∃ t, exec (.rsRdpar i) s = .next t ∧ t = { s with result := t.result } ∧
        t.result.toNat = s.field.neg (entry s.r (s.kVal - 1 - i))) ∧
      (s.kVal < i → exec (.rsRdgen i) s = .next (latch .range s)) ∧
      (i ≤ s.kVal → ∃ t, exec (.rsRdgen i) s = .next t ∧ t = { s with result := t.result } ∧
        t.result.toNat = entry s.g i ∧ (i = s.kVal → t.result.toNat = 1)) ∧
      (∃ t, exec .rsClear s = .next t ∧ t = { s with r := t.r, feedcnt := 0 } ∧
        t.remCoeffs = List.replicate s.kVal 0))

/-- R151: big.wr replaces one chunk, bits [111:96] for chunk 3, and refuses wider chunk-3 data with RANGE. -/
def Obligations.BigWrReplacesOneChunk : Prop :=
  ∀ (rd : BigReg) (chunk : Nat) (s : State), chunk < 4 →
    (chunk = 3 → 65536 ≤ s.a0 → exec (.bigWr rd chunk) s = .next (latch .range s)) ∧
    (chunk < 3 ∨ s.a0 < 65536 →
      ∃ t, exec (.bigWr rd chunk) s = .next t ∧ t = { s with big := t.big } ∧
        (∀ r, r ≠ rd → t.big.get r = s.big.get r) ∧
        ∀ i, i < 112 → (t.big.get rd).getLsbD i =
          if 32 * chunk ≤ i ∧ i < 32 * chunk + 32 then s.arg0.getLsbD (i - 32 * chunk)
          else (s.big.get rd).getLsbD i)

/-- R152: big.rd reads one chunk, zero-extended. -/
def Obligations.BigRdReadsOneChunk : Prop :=
  ∀ (ra : BigReg) (chunk : Nat) (s : State), chunk < 4 →
    ∃ t, exec (.bigRd ra chunk) s = .next t ∧ t = { s with result := t.result } ∧
      ∀ i, i < 32 → t.result.getLsbD i = (s.big.get ra).getLsbD (32 * chunk + i)

/-- R154, R155: big.add and big.sub modulo 2^112 with carry and borrow, also when registers coincide. -/
def Obligations.BigAddAndSub : Prop :=
  ∀ (rd ra rb : BigReg) (s : State),
    (∃ t, exec (.bigAdd rd ra rb) s = .next t ∧
      BigResult rd ((s.bigVal ra + s.bigVal rb) % 2 ^ 112) (decide (2 ^ 112 ≤ s.bigVal ra + s.bigVal rb)) s t) ∧
    (∃ t, exec (.bigSub rd ra rb) s = .next t ∧
      BigResult rd (((s.bigVal ra : Int) - s.bigVal rb) % 2 ^ 112).toNat (decide (s.bigVal ra < s.bigVal rb)) s t)

/-- R157, R158: the logical shifts by any amount, C saying that a 1 bit was shifted out. -/
def Obligations.BigShifts : Prop :=
  ∀ (rd ra : BigReg) (sh : Nat) (s : State),
    (∃ t, exec (.bigShl rd ra sh) s = .next t ∧
      BigResult rd (s.bigVal ra * 2 ^ sh % 2 ^ 112) (decide (2 ^ 112 ≤ s.bigVal ra * 2 ^ sh)) s t) ∧
    (∃ t, exec (.bigShr rd ra sh) s = .next t ∧
      BigResult rd (s.bigVal ra / 2 ^ sh) (decide (s.bigVal ra % 2 ^ sh ≠ 0)) s t)

/-- R153, R159: big.clr and big.mul10a (digits above 9 are RANGE). -/
def Obligations.BigClrAndMul10a : Prop :=
  ∀ (rd ra : BigReg) (digit : Nat) (s : State),
    (∃ t, exec (.bigClr rd) s = .next t ∧ BigResult rd 0 false s t) ∧
    (9 < digit → exec (.bigMul10a rd ra digit) s = .next (latch .range s)) ∧
    (digit ≤ 9 → ∃ t, exec (.bigMul10a rd ra digit) s = .next t ∧
      BigResult rd ((s.bigVal ra * 10 + digit) % 2 ^ 112) (decide (2 ^ 112 ≤ s.bigVal ra * 10 + digit)) s t)

/-- R156, R160: big.cmp compares unsigned and writes GT and EQ only, and it is a total order: of "greater", "equal" and
"less" (greater the other way round) exactly one holds. -/
def Obligations.BigCmpComparesUnsigned : Prop :=
  ∀ (ra rb : BigReg) (s : State),
    exec (.bigCmp ra rb) s =
      .next { s with gt := decide (s.bigVal ra > s.bigVal rb), eq := decide (s.bigVal ra = s.bigVal rb) } ∧
    ∃ t u, exec (.bigCmp ra rb) s = .next t ∧ exec (.bigCmp rb ra) s = .next u ∧
      t.gt.toNat + t.eq.toNat + u.gt.toNat = 1

/-! Host procedures (R91, R160, R161) -/

/-- R160: adding back what was subtracted restores the value, also after a borrow. -/
def Obligations.AddUndoesSub : Prop :=
  ∀ (rd ra rb : BigReg) (s : State), rd ≠ rb →
    ∃ t, runCommands [.bigSub rd ra rb, .bigAdd rd rd rb] s = .next t ∧ t.bigVal rd = s.bigVal ra

/-- R91 (big.ld): the four chunk writes load any 112-bit value, from any idle state, and leave ARG0 = v[111:96]. -/
def Obligations.ChunkLoadGivesTheValue : Prop :=
  ∀ (bd : BigReg) (v : Big) (s : State), s.running = none → s.events = HostScript.bigLd bd v →
    ∃ t, runSteps s.events.length s = .next t ∧ t.big.get bd = v ∧ t.arg0.toNat = v.toNat / 2 ^ 96 ∧
      t.errcode = s.errcode ∧ t.running = none ∧ ∀ r, r ≠ bd → t.big.get r = s.big.get r

/-- R161: the decimal load gives Σ d_i·10^(n−i) modulo 2^112, exact with C = 0 for up to 33 digits. -/
def Obligations.DecimalLoadGivesTheValue : Prop :=
  ∀ (bd : BigReg) (digits : List Nat) (s : State), (∀ d ∈ digits, d ≤ 9) →
    ∃ t, runCommands (.bigClr bd :: digits.map (.bigMul10a bd bd)) s = .next t ∧
      t.bigVal bd = Nat.ofDigits 10 digits.reverse % 2 ^ 112 ∧
      (digits.length ≤ 33 → t.bigVal bd = Nat.ofDigits 10 digits.reverse ∧ t.c = false) ∧
      t.errcode = s.errcode

/-- R162: shift-subtract division leaves the remainder in B0 and gives the quotient, if 2·B1 never overflows. The host's
loop as a function bounded by 112 rounds is the model's form (log 17). -/
def Obligations.ShiftSubtractDivides : Prop :=
  ∀ (value divisor : Nat) (s : State), s.bigVal .b0 = value → s.bigVal .b1 = divisor → 0 < divisor →
    2 * divisor < 2 ^ 112 → (∀ j, divisor * 2 ^ j ≤ value → divisor * 2 ^ (j + 1) < 2 ^ 112) →
    ∃ t, HostScript.divide s = .next (t, value / divisor) ∧ t.bigVal .b0 = value % divisor ∧ t.errcode = s.errcode
end

