-- ==== Sys2Proof/Laws/Encoding.lean ====
section
/-! SUPPORT. The encoder's words as numbers, and the fields read back from a word. -/

namespace Sys2Proof

theorem BigReg.num_lt (r : BigReg) : r.num < 4 := by cases r <;> decide

@[simp] theorem BigReg.ofField_num (r : BigReg) : BigReg.ofField r.num = r := by cases r <;> rfl

theorem BigReg.num_ofField {n : Nat} (h : n < 4) : (BigReg.ofField n).num = n := by
  match n, h with
  | 0, _ => rfl
  | 1, _ => rfl
  | 2, _ => rfl
  | 3, _ => rfl

/-- A word built from fields that fit is their weighted sum (R92). -/
theorem encodeFields_toNat {opc rd ra rb imm : Nat} (ho : opc < 256) (hd : rd < 4) (ha : ra < 4) (hb : rb < 4)
    (hi : imm < 65536) :
    (encodeFields opc rd ra rb imm).toNat = opc * 2 ^ 24 + rd * 2 ^ 20 + ra * 2 ^ 18 + rb * 2 ^ 16 + imm := by
  simp only [encodeFields, BitVec.toNat_ofNat]
  omega

/-- A row's test, bit by bit (R80). -/
theorem OpcodeRow.matchesWord_iff (row : OpcodeRow) (w : Word) :
    row.matchesWord w = true ↔ ∀ i < 32, (w.getLsbD i && row.mask.getLsbD i) = row.pattern.getLsbD i := by
  simp only [matchesWord, decide_eq_true_eq]
  constructor
  · intro h i _
    rw [← h, BitVec.getLsbD_and]
  · intro h
    apply BitVec.eq_of_getLsbD_eq
    intro i hi
    rw [BitVec.getLsbD_and]
    exact h i hi

/-- The fields of a word side by side (R82, R92). -/
theorem encodeFields_eq_append {opc rd ra rb imm : Nat} (hd : rd < 4) (ha : ra < 4) (hb : rb < 4)
    (hi : imm < 65536) (ho : opc < 256) :
    encodeFields opc rd ra rb imm =
      BitVec.ofNat 8 opc ++ 0#2 ++ BitVec.ofNat 2 rd ++ BitVec.ofNat 2 ra ++ BitVec.ofNat 2 rb ++
        BitVec.ofNat 16 imm := by
  apply BitVec.eq_of_toNat_eq
  rw [encodeFields_toNat ho hd ha hb hi]
  simp only [BitVec.toNat_append, BitVec.toNat_ofNat]
  rw [← Nat.shiftLeft_add_eq_or_of_lt (by omega), ← Nat.shiftLeft_add_eq_or_of_lt (by omega),
    ← Nat.shiftLeft_add_eq_or_of_lt (by omega), ← Nat.shiftLeft_add_eq_or_of_lt (by omega),
    ← Nat.shiftLeft_add_eq_or_of_lt (by omega)]
  simp only [Nat.shiftLeft_eq]
  omega

/-- An immediate below 2^n has 0 in every bit of a mask above bit n. -/
theorem ofNat_and_high {n imm mask : Nat} (h : imm < 2 ^ n) (hm : ∀ i < n, mask.testBit i = false) :
    BitVec.ofNat 16 imm &&& BitVec.ofNat 16 mask = 0#16 := by
  apply BitVec.eq_of_getLsbD_eq
  intro i hi
  by_cases hin : i < n
  · simp [BitVec.getLsbD_ofNat, hm i hin]
  · have : imm.testBit i = false := Nat.testBit_lt_two_pow (h.trans_le (Nat.pow_le_pow_right (by decide) (by omega)))
    simp [BitVec.getLsbD_ofNat, this]

/-- Words that agree with a row on OPC and have 0 in every bit the format does not use match it (R85). -/
theorem matches_of_fields {row : OpcodeRow} {opc rd ra rb imm : Nat} (md ma mb : BitVec 2) (mi : BitVec 16)
    (hp : row.pattern = BitVec.ofNat 8 opc ++ 0#24) (hm : row.mask = 0xFF#8 ++ 3#2 ++ md ++ ma ++ mb ++ mi)
    (ho : opc < 256) (hd : rd < 4) (ha : ra < 4) (hb : rb < 4) (hi : imm < 65536)
    (zd : BitVec.ofNat 2 rd &&& md = 0) (za : BitVec.ofNat 2 ra &&& ma = 0) (zb : BitVec.ofNat 2 rb &&& mb = 0)
    (zi : BitVec.ofNat 16 imm &&& mi = 0) :
    row.matchesWord (encodeFields opc rd ra rb imm) = true := by
  simp only [OpcodeRow.matchesWord, decide_eq_true_eq]
  rw [encodeFields_eq_append hd ha hb hi ho, hp, hm]
  have e : ∀ (x0 y0 : BitVec 8) (x1 y1 x2 y2 x3 y3 x4 y4 : BitVec 2) (x5 y5 : BitVec 16),
      (x0 ++ x1 ++ x2 ++ x3 ++ x4 ++ x5) &&& (y0 ++ y1 ++ y2 ++ y3 ++ y4 ++ y5) =
        (x0 &&& y0) ++ (x1 &&& y1) ++ (x2 &&& y2) ++ (x3 &&& y3) ++ (x4 &&& y4) ++ (x5 &&& y5) := by
    intros; simp only [BitVec.and_append]
  refine (e ..).trans ?_
  rw [zd, za, zb, zi]
  generalize BitVec.ofNat 8 opc = o
  revert o
  decide

end Sys2Proof
end

