-- ==== Sys2Proof/Laws/Galois.lean ====
section
/-! SUPPORT. Field arithmetic stays within the field, multiplication by α is the table step, and what the table build
leaves. -/

namespace Sys2Proof.Machine

/-! Shift and reduce -/

/-- Reduction brings a shifted element back below 2^m. -/
theorem xtime_lt {poly m v : Nat} (hlo : 2 ^ m ≤ poly) (hhi : poly < 2 ^ (m + 1)) (hv : v < 2 ^ m) :
    xtime poly m v < 2 ^ m := by
  have hv1 : v <<< 1 < 2 ^ (m + 1) := by rw [Nat.shiftLeft_eq, Nat.pow_succ]; omega
  unfold xtime
  split
  · next hbit =>
    apply Nat.lt_pow_two_of_testBit
    intro i hi
    rw [Nat.testBit_xor]
    rcases Nat.eq_or_lt_of_le hi with rfl | hlt
    · have hp : poly.testBit m = true := by
        rw [Nat.testBit_eq_decide_div_mod_eq]
        have : poly / 2 ^ m = 1 := by
          rw [Nat.div_eq_iff (Nat.two_pow_pos m)]
          rw [Nat.pow_succ] at hhi
          omega
        simp [this]
      rw [hbit, hp]
      rfl
    · rw [Nat.testBit_lt_two_pow (hv1.trans_le (Nat.pow_le_pow_right (by decide) hlt)),
        Nat.testBit_lt_two_pow (hhi.trans_le (Nat.pow_le_pow_right (by decide) hlt))]
      rfl
  · next hbit =>
    apply Nat.lt_pow_two_of_testBit
    intro i hi
    rcases Nat.eq_or_lt_of_le hi with rfl | hlt
    · simpa using hbit
    · exact Nat.testBit_lt_two_pow (hv1.trans_le (Nat.pow_le_pow_right (by decide) hlt))

@[simp] theorem xtime_zero (poly m : Nat) : xtime poly m 0 = 0 := by simp [xtime]

/-- Shift and reduce is linear over XOR. -/
theorem xtime_xor (poly m a b : Nat) : xtime poly m (a ^^^ b) = xtime poly m a ^^^ xtime poly m b := by
  have hs : (a ^^^ b) <<< 1 = a <<< 1 ^^^ b <<< 1 := Nat.shiftLeft_xor_distrib
  unfold xtime
  rw [hs, Nat.testBit_xor]
  generalize a <<< 1 = x
  generalize b <<< 1 = y
  have three : ∀ p q : Nat, x ^^^ p ^^^ (y ^^^ q) = x ^^^ y ^^^ (p ^^^ q) := by
    intro p q
    apply Nat.eq_of_testBit_eq
    intro i
    simp only [Nat.testBit_xor]
    cases x.testBit i <;> cases y.testBit i <;> cases p.testBit i <;> cases q.testBit i <;> rfl
  cases x.testBit m <;> cases y.testBit m
  · rfl
  · simpa using (three 0 poly).symm
  · simpa using (three poly 0).symm
  · simpa using (three poly poly).symm

/-- Both parts of the loop of `clmulmod` stay below 2^m. -/
theorem clmul_foldl_lt {poly m : Nat} (b : Nat) (hlo : 2 ^ m ≤ poly) (hhi : poly < 2 ^ (m + 1)) (l : List Nat)
    (ar : Nat × Nat) (h1 : ar.1 < 2 ^ m) (h2 : ar.2 < 2 ^ m) :
    (l.foldl (clmulStep b poly m) ar).1 < 2 ^ m ∧ (l.foldl (clmulStep b poly m) ar).2 < 2 ^ m := by
  induction l generalizing ar with
  | nil => exact ⟨h1, h2⟩
  | cons i l ih =>
    apply ih
    · exact xtime_lt hlo hhi h1
    · simp only [clmulStep]
      split
      · exact Nat.xor_lt_two_pow h2 h1
      · exact h2

theorem clmulmod_lt {poly m a : Nat} (b : Nat) (hlo : 2 ^ m ≤ poly) (hhi : poly < 2 ^ (m + 1)) (ha : a < 2 ^ m) :
    clmulmod a b poly m < 2 ^ m :=
  (clmul_foldl_lt b hlo hhi _ (a, 0) ha (Nat.two_pow_pos m)).2

/-- A product whose second factor is x^j, j < m, is j shifts and reductions. -/
theorem clmul_foldl_two_pow (poly m j : Nat) (n a r : Nat) :
    (List.range n).foldl (clmulStep (2 ^ j) poly m) (a, r) =
      ((xtime poly m)^[n] a, if j < n then r ^^^ (xtime poly m)^[j] a else r) := by
  induction n with
  | zero => simp
  | succ n ih =>
    rw [List.range_succ, List.foldl_append, ih]
    simp only [List.foldl_cons, List.foldl_nil, clmulStep, Function.iterate_succ_apply', Prod.mk.injEq, true_and,
      Nat.testBit_two_pow]
    rcases Nat.lt_trichotomy j n with h | h | h
    · simp [h, Nat.lt_succ_of_lt h, Nat.ne_of_lt h]
    · simp [h]
    · simp [Nat.not_lt_of_lt h, Nat.ne_of_gt h, show ¬j < n + 1 by omega]

theorem clmulmod_two {poly m : Nat} (a : Nat) (hm : 2 ≤ m) : clmulmod a 2 poly m = xtime poly m a := by
  have h := clmul_foldl_two_pow poly m 1 m a 0
  simp only [pow_one] at h
  simp [clmulmod, h, show 1 < m by omega]

namespace FieldCfg

variable {F : FieldCfg}

/-! The field's size -/

theorem Shape.q_eq (h : F.Shape) : F.q = F.N + 1 := by
  obtain ⟨-, h⟩ := h
  unfold q
  cases hk : F.kind <;> simp only [hk] at h ⊢
  · have := Nat.two_pow_pos F.m.toNat
    omega
  · omega

theorem Shape.two_lt_q (h : F.Shape) : 2 < F.q := by
  obtain ⟨-, h⟩ := h
  unfold q
  cases hk : F.kind <;> simp only [hk] at h ⊢
  · have := Nat.pow_le_pow_right (n := 2) (by decide) h.1
    omega
  · omega

theorem Shape.q_le (h : F.Shape) : F.q ≤ 4096 := by
  obtain ⟨-, h⟩ := h
  unfold q
  cases hk : F.kind <;> simp only [hk] at h ⊢
  · exact Nat.pow_le_pow_right (n := 2) (by decide) h.2.1
  · omega

/-! Closure -/

theorem Shape.add_lt (h : F.Shape) {a b : Nat} (ha : a < F.q) (hb : b < F.q) : F.add a b < F.q := by
  have hq := h.two_lt_q
  revert ha hb hq
  unfold add q
  cases F.kind <;> intro ha hb hq
  · exact Nat.xor_lt_two_pow ha hb
  · exact Nat.mod_lt _ (by simp only at hq; omega)

theorem Shape.neg_lt (h : F.Shape) {a : Nat} (ha : a < F.q) : F.neg a < F.q := by
  have hq := h.two_lt_q
  revert ha hq
  unfold neg q
  cases F.kind <;> intro ha hq
  · exact ha
  · exact Nat.mod_lt _ (by simp only at hq; omega)

theorem Shape.sub_lt (h : F.Shape) {a b : Nat} (ha : a < F.q) (hb : b < F.q) : F.sub a b < F.q :=
  h.add_lt ha (h.neg_lt hb)

theorem Shape.mul_lt (h : F.Shape) {a : Nat} (b : Nat) (ha : a < F.q) : F.mul a b < F.q := by
  have hq := h.two_lt_q
  obtain ⟨-, h⟩ := h
  unfold mul
  unfold q at ha hq ⊢
  cases hk : F.kind <;> simp only [hk] at h ha hq ⊢
  · exact clmulmod_lt b h.2.2.1 h.2.2.2.1 ha
  · exact Nat.mod_lt _ (by omega)

theorem Shape.step_lt (h : F.Shape) {v : Nat} (hv : v < F.q) : F.step v < F.q := by
  have hq := h.two_lt_q
  obtain ⟨-, h⟩ := h
  unfold step
  unfold q at hv hq ⊢
  cases hk : F.kind <;> simp only [hk] at h hv hq ⊢
  · exact xtime_lt h.2.2.1 h.2.2.2.1 hv
  · exact Nat.mod_lt _ (by omega)

theorem Shape.exp_lt (h : F.Shape) (e : Nat) : F.exp e < F.q := by
  induction e with
  | zero => exact Nat.lt_trans Nat.one_lt_two h.two_lt_q
  | succ e ih => exact h.mul_lt _ ih

/-! Powers of α -/

/-- `step(v)` of the table build is multiplication by α (R114). -/
theorem Shape.mul_alpha (h : F.Shape) (v : Nat) : F.mul v F.alpha.toNat = F.step v := by
  obtain ⟨-, h⟩ := h
  unfold mul step
  cases hk : F.kind <;> simp only [hk] at h ⊢
  · rw [h.2.2.2.2.1]
    exact clmulmod_two v h.1

theorem Shape.exp_eq_iterate (h : F.Shape) (e : Nat) : F.exp e = F.step^[e] 1 := by
  induction e with
  | zero => rfl
  | succ e ih => rw [Function.iterate_succ_apply', ← ih, ← h.mul_alpha]; rfl

end FieldCfg

/-! The table build (R114) -/

theorem buildFrom_alog (F : FieldCfg) (n e v : Nat) (log : List Nat) :
    (buildFrom F n e v log).alog = (List.range n).map fun i => F.step^[i] v := by
  induction n generalizing e v log with
  | zero => rfl
  | succ n ih =>
    simp only [buildFrom, ih, List.range_succ_eq_map, List.map_cons, List.map_map, Function.iterate_zero, id_eq]
    congr 1

theorem buildFrom_ok (F : FieldCfg) (n e v : Nat) (log : List Nat) :
    (buildFrom F n e v log).ok = true ↔
      F.step^[n] v = 1 ∧ ∀ i, i < n → 0 < e + i → F.step^[i] v ≠ 1 := by
  induction n generalizing e v log with
  | zero => simp [buildFrom]
  | succ n ih =>
    simp only [buildFrom, Bool.and_eq_true, ih, Bool.not_eq_true', Bool.and_eq_false_iff, decide_eq_false_iff_not,
      beq_eq_false_iff_ne, Function.iterate_succ_apply]
    constructor
    · rintro ⟨⟨h1, h2⟩, h3⟩
      refine ⟨h1, fun i hi h0 => ?_⟩
      cases i with
      | zero => rcases h3 with h3 | h3
                · omega
                · simpa using h3
      | succ i => exact h2 i (by omega) (by omega)
    · rintro ⟨h1, h2⟩
      refine ⟨⟨h1, fun i hi _ => ?_⟩, ?_⟩
      · have := h2 (i + 1) (by omega) (by omega)
        simpa only [Function.iterate_succ_apply] using this
      · by_cases h0 : 0 < e
        · exact .inr (by simpa using h2 0 (by omega) (by omega))
        · exact .inl h0

@[simp] theorem buildFrom_log_length (F : FieldCfg) (n e v : Nat) (log : List Nat) :
    (buildFrom F n e v log).log.length = log.length := by
  induction n generalizing e v log with
  | zero => rfl
  | succ n ih => simp [buildFrom, ih]

/-- An entry that no later pass writes keeps its value. -/
theorem buildFrom_log_other (F : FieldCfg) (n e v : Nat) (log : List Nat) (a : Nat)
    (h : ∀ i, i < n → F.step^[i] v ≠ a) : (buildFrom F n e v log).log.getD a 0 = log.getD a 0 := by
  induction n generalizing e v log with
  | zero => rfl
  | succ n ih =>
    simp only [buildFrom]
    rw [ih _ _ _ fun i hi => by simpa only [Function.iterate_succ_apply] using h (i + 1) (by omega)]
    have : v ≠ a := h 0 (by omega)
    simp only [List.getD_eq_getElem?_getD, List.getElem?_set_ne this]

/-- LOG[α^i] = e + i, when the powers visited are distinct and inside LOG (R114). -/
theorem buildFrom_log_power (F : FieldCfg) (n e v : Nat) (log : List Nat) (i : Nat) (hi : i < n)
    (hlen : ∀ j, j < n → F.step^[j] v < log.length)
    (hinj : ∀ j k, j < k → k < n → F.step^[j] v ≠ F.step^[k] v) :
    (buildFrom F n e v log).log.getD (F.step^[i] v) 0 = e + i := by
  induction n generalizing e v log i with
  | zero => omega
  | succ n ih =>
    simp only [buildFrom]
    cases i with
    | zero =>
      rw [buildFrom_log_other]
      · have : v < log.length := hlen 0 (by omega)
        simp [List.getD_eq_getElem?_getD, this]
      · intro j hj
        have := hinj 0 (j + 1) (by omega) (by omega)
        simpa only [Function.iterate_succ_apply, Function.iterate_zero, id_eq] using this.symm
    | succ i =>
      rw [Function.iterate_succ_apply, ih (e + 1) (F.step v) (log.set v e) i (by omega)]
      · omega
      · intro j hj
        simpa only [List.length_set, Function.iterate_succ_apply] using hlen (j + 1) (by omega)
      · intro j k hjk hk
        simpa only [Function.iterate_succ_apply] using hinj (j + 1) (k + 1) (by omega) (by omega)

end Sys2Proof.Machine
end

