-- ==== Sys2Proof/Laws/State.lean ====
section
/-! SUPPORT. Each field of the state after each named update, so that no proof unfolds a record update. -/

namespace Sys2Proof.Machine

@[simp] theorem latch_arg0 (e : ErrorCode) (s : State) : (latch e s).arg0 = s.arg0 := rfl
@[simp] theorem latch_arg1 (e : ErrorCode) (s : State) : (latch e s).arg1 = s.arg1 := rfl
@[simp] theorem latch_result (e : ErrorCode) (s : State) : (latch e s).result = s.result := rfl
@[simp] theorem latch_errcode (e : ErrorCode) (s : State) : (latch e s).errcode = if s.errcode = .noError then e else s.errcode := rfl
@[simp] theorem latch_c (e : ErrorCode) (s : State) : (latch e s).c = s.c := rfl
@[simp] theorem latch_z (e : ErrorCode) (s : State) : (latch e s).z = s.z := rfl
@[simp] theorem latch_gt (e : ErrorCode) (s : State) : (latch e s).gt = s.gt := rfl
@[simp] theorem latch_eq (e : ErrorCode) (s : State) : (latch e s).eq = s.eq := rfl
@[simp] theorem latch_big (e : ErrorCode) (s : State) : (latch e s).big = s.big := rfl
@[simp] theorem latch_fieldOk (e : ErrorCode) (s : State) : (latch e s).fieldOk = s.fieldOk := rfl
@[simp] theorem latch_field (e : ErrorCode) (s : State) : (latch e s).field = s.field := rfl
@[simp] theorem latch_log (e : ErrorCode) (s : State) : (latch e s).log = s.log := rfl
@[simp] theorem latch_alog (e : ErrorCode) (s : State) : (latch e s).alog = s.alog := rfl
@[simp] theorem latch_genOk (e : ErrorCode) (s : State) : (latch e s).genOk = s.genOk := rfl
@[simp] theorem latch_k (e : ErrorCode) (s : State) : (latch e s).k = s.k := rfl
@[simp] theorem latch_g (e : ErrorCode) (s : State) : (latch e s).g = s.g := rfl
@[simp] theorem latch_r (e : ErrorCode) (s : State) : (latch e s).r = s.r := rfl
@[simp] theorem latch_feedcnt (e : ErrorCode) (s : State) : (latch e s).feedcnt = s.feedcnt := rfl
@[simp] theorem latch_running (e : ErrorCode) (s : State) : (latch e s).running = s.running := rfl
@[simp] theorem latch_kMax (e : ErrorCode) (s : State) : (latch e s).kMax = s.kMax := rfl
@[simp] theorem latch_events (e : ErrorCode) (s : State) : (latch e s).events = s.events := rfl
@[simp] theorem latch_response (e : ErrorCode) (s : State) : (latch e s).response = s.response := rfl
@[simp] theorem latch_draws (e : ErrorCode) (s : State) : (latch e s).draws = s.draws := rfl

@[simp] theorem setResult_arg0 (v : Nat) (s : State) : (setResult v s).arg0 = s.arg0 := rfl
@[simp] theorem setResult_arg1 (v : Nat) (s : State) : (setResult v s).arg1 = s.arg1 := rfl
@[simp] theorem setResult_result (v : Nat) (s : State) : (setResult v s).result = BitVec.ofNat 32 v := rfl
@[simp] theorem setResult_errcode (v : Nat) (s : State) : (setResult v s).errcode = s.errcode := rfl
@[simp] theorem setResult_c (v : Nat) (s : State) : (setResult v s).c = s.c := rfl
@[simp] theorem setResult_z (v : Nat) (s : State) : (setResult v s).z = s.z := rfl
@[simp] theorem setResult_gt (v : Nat) (s : State) : (setResult v s).gt = s.gt := rfl
@[simp] theorem setResult_eq (v : Nat) (s : State) : (setResult v s).eq = s.eq := rfl
@[simp] theorem setResult_big (v : Nat) (s : State) : (setResult v s).big = s.big := rfl
@[simp] theorem setResult_fieldOk (v : Nat) (s : State) : (setResult v s).fieldOk = s.fieldOk := rfl
@[simp] theorem setResult_field (v : Nat) (s : State) : (setResult v s).field = s.field := rfl
@[simp] theorem setResult_log (v : Nat) (s : State) : (setResult v s).log = s.log := rfl
@[simp] theorem setResult_alog (v : Nat) (s : State) : (setResult v s).alog = s.alog := rfl
@[simp] theorem setResult_genOk (v : Nat) (s : State) : (setResult v s).genOk = s.genOk := rfl
@[simp] theorem setResult_k (v : Nat) (s : State) : (setResult v s).k = s.k := rfl
@[simp] theorem setResult_g (v : Nat) (s : State) : (setResult v s).g = s.g := rfl
@[simp] theorem setResult_r (v : Nat) (s : State) : (setResult v s).r = s.r := rfl
@[simp] theorem setResult_feedcnt (v : Nat) (s : State) : (setResult v s).feedcnt = s.feedcnt := rfl
@[simp] theorem setResult_running (v : Nat) (s : State) : (setResult v s).running = s.running := rfl
@[simp] theorem setResult_kMax (v : Nat) (s : State) : (setResult v s).kMax = s.kMax := rfl
@[simp] theorem setResult_events (v : Nat) (s : State) : (setResult v s).events = s.events := rfl
@[simp] theorem setResult_response (v : Nat) (s : State) : (setResult v s).response = s.response := rfl
@[simp] theorem setResult_draws (v : Nat) (s : State) : (setResult v s).draws = s.draws := rfl

@[simp] theorem writeBig_arg0 (rd : BigReg) (t : Nat) (b : Bool) (s : State) : (writeBig rd t b s).arg0 = s.arg0 := rfl
@[simp] theorem writeBig_arg1 (rd : BigReg) (t : Nat) (b : Bool) (s : State) : (writeBig rd t b s).arg1 = s.arg1 := rfl
@[simp] theorem writeBig_result (rd : BigReg) (t : Nat) (b : Bool) (s : State) : (writeBig rd t b s).result = s.result := rfl
@[simp] theorem writeBig_errcode (rd : BigReg) (t : Nat) (b : Bool) (s : State) : (writeBig rd t b s).errcode = s.errcode := rfl
@[simp] theorem writeBig_c (rd : BigReg) (t : Nat) (b : Bool) (s : State) : (writeBig rd t b s).c = b := rfl
@[simp] theorem writeBig_z (rd : BigReg) (t : Nat) (b : Bool) (s : State) : (writeBig rd t b s).z = (t % 2 ^ 112 == 0) := rfl
@[simp] theorem writeBig_gt (rd : BigReg) (t : Nat) (b : Bool) (s : State) : (writeBig rd t b s).gt = s.gt := rfl
@[simp] theorem writeBig_eq (rd : BigReg) (t : Nat) (b : Bool) (s : State) : (writeBig rd t b s).eq = s.eq := rfl
@[simp] theorem writeBig_big (rd : BigReg) (t : Nat) (b : Bool) (s : State) : (writeBig rd t b s).big = s.big.set rd (BitVec.ofNat 112 t) := rfl
@[simp] theorem writeBig_fieldOk (rd : BigReg) (t : Nat) (b : Bool) (s : State) : (writeBig rd t b s).fieldOk = s.fieldOk := rfl
@[simp] theorem writeBig_field (rd : BigReg) (t : Nat) (b : Bool) (s : State) : (writeBig rd t b s).field = s.field := rfl
@[simp] theorem writeBig_log (rd : BigReg) (t : Nat) (b : Bool) (s : State) : (writeBig rd t b s).log = s.log := rfl
@[simp] theorem writeBig_alog (rd : BigReg) (t : Nat) (b : Bool) (s : State) : (writeBig rd t b s).alog = s.alog := rfl
@[simp] theorem writeBig_genOk (rd : BigReg) (t : Nat) (b : Bool) (s : State) : (writeBig rd t b s).genOk = s.genOk := rfl
@[simp] theorem writeBig_k (rd : BigReg) (t : Nat) (b : Bool) (s : State) : (writeBig rd t b s).k = s.k := rfl
@[simp] theorem writeBig_g (rd : BigReg) (t : Nat) (b : Bool) (s : State) : (writeBig rd t b s).g = s.g := rfl
@[simp] theorem writeBig_r (rd : BigReg) (t : Nat) (b : Bool) (s : State) : (writeBig rd t b s).r = s.r := rfl
@[simp] theorem writeBig_feedcnt (rd : BigReg) (t : Nat) (b : Bool) (s : State) : (writeBig rd t b s).feedcnt = s.feedcnt := rfl
@[simp] theorem writeBig_running (rd : BigReg) (t : Nat) (b : Bool) (s : State) : (writeBig rd t b s).running = s.running := rfl
@[simp] theorem writeBig_kMax (rd : BigReg) (t : Nat) (b : Bool) (s : State) : (writeBig rd t b s).kMax = s.kMax := rfl
@[simp] theorem writeBig_events (rd : BigReg) (t : Nat) (b : Bool) (s : State) : (writeBig rd t b s).events = s.events := rfl
@[simp] theorem writeBig_response (rd : BigReg) (t : Nat) (b : Bool) (s : State) : (writeBig rd t b s).response = s.response := rfl
@[simp] theorem writeBig_draws (rd : BigReg) (t : Nat) (b : Bool) (s : State) : (writeBig rd t b s).draws = s.draws := rfl

@[simp] theorem writeCompare_arg0 (a b : Nat) (s : State) : (writeCompare a b s).arg0 = s.arg0 := rfl
@[simp] theorem writeCompare_arg1 (a b : Nat) (s : State) : (writeCompare a b s).arg1 = s.arg1 := rfl
@[simp] theorem writeCompare_result (a b : Nat) (s : State) : (writeCompare a b s).result = s.result := rfl
@[simp] theorem writeCompare_errcode (a b : Nat) (s : State) : (writeCompare a b s).errcode = s.errcode := rfl
@[simp] theorem writeCompare_c (a b : Nat) (s : State) : (writeCompare a b s).c = s.c := rfl
@[simp] theorem writeCompare_z (a b : Nat) (s : State) : (writeCompare a b s).z = s.z := rfl
@[simp] theorem writeCompare_gt (a b : Nat) (s : State) : (writeCompare a b s).gt = decide (a > b) := rfl
@[simp] theorem writeCompare_eq (a b : Nat) (s : State) : (writeCompare a b s).eq = decide (a = b) := rfl
@[simp] theorem writeCompare_big (a b : Nat) (s : State) : (writeCompare a b s).big = s.big := rfl
@[simp] theorem writeCompare_fieldOk (a b : Nat) (s : State) : (writeCompare a b s).fieldOk = s.fieldOk := rfl
@[simp] theorem writeCompare_field (a b : Nat) (s : State) : (writeCompare a b s).field = s.field := rfl
@[simp] theorem writeCompare_log (a b : Nat) (s : State) : (writeCompare a b s).log = s.log := rfl
@[simp] theorem writeCompare_alog (a b : Nat) (s : State) : (writeCompare a b s).alog = s.alog := rfl
@[simp] theorem writeCompare_genOk (a b : Nat) (s : State) : (writeCompare a b s).genOk = s.genOk := rfl
@[simp] theorem writeCompare_k (a b : Nat) (s : State) : (writeCompare a b s).k = s.k := rfl
@[simp] theorem writeCompare_g (a b : Nat) (s : State) : (writeCompare a b s).g = s.g := rfl
@[simp] theorem writeCompare_r (a b : Nat) (s : State) : (writeCompare a b s).r = s.r := rfl
@[simp] theorem writeCompare_feedcnt (a b : Nat) (s : State) : (writeCompare a b s).feedcnt = s.feedcnt := rfl
@[simp] theorem writeCompare_running (a b : Nat) (s : State) : (writeCompare a b s).running = s.running := rfl
@[simp] theorem writeCompare_kMax (a b : Nat) (s : State) : (writeCompare a b s).kMax = s.kMax := rfl
@[simp] theorem writeCompare_events (a b : Nat) (s : State) : (writeCompare a b s).events = s.events := rfl
@[simp] theorem writeCompare_response (a b : Nat) (s : State) : (writeCompare a b s).response = s.response := rfl
@[simp] theorem writeCompare_draws (a b : Nat) (s : State) : (writeCompare a b s).draws = s.draws := rfl

@[simp] theorem invalidateField_arg0 (s : State) : (invalidateField s).arg0 = s.arg0 := rfl
@[simp] theorem invalidateField_arg1 (s : State) : (invalidateField s).arg1 = s.arg1 := rfl
@[simp] theorem invalidateField_result (s : State) : (invalidateField s).result = s.result := rfl
@[simp] theorem invalidateField_errcode (s : State) : (invalidateField s).errcode = s.errcode := rfl
@[simp] theorem invalidateField_c (s : State) : (invalidateField s).c = s.c := rfl
@[simp] theorem invalidateField_z (s : State) : (invalidateField s).z = s.z := rfl
@[simp] theorem invalidateField_gt (s : State) : (invalidateField s).gt = s.gt := rfl
@[simp] theorem invalidateField_eq (s : State) : (invalidateField s).eq = s.eq := rfl
@[simp] theorem invalidateField_big (s : State) : (invalidateField s).big = s.big := rfl
@[simp] theorem invalidateField_fieldOk (s : State) : (invalidateField s).fieldOk = false := rfl
@[simp] theorem invalidateField_field (s : State) : (invalidateField s).field = .zero := rfl
@[simp] theorem invalidateField_log (s : State) : (invalidateField s).log = s.log := rfl
@[simp] theorem invalidateField_alog (s : State) : (invalidateField s).alog = s.alog := rfl
@[simp] theorem invalidateField_genOk (s : State) : (invalidateField s).genOk = false := rfl
@[simp] theorem invalidateField_k (s : State) : (invalidateField s).k = 0 := rfl
@[simp] theorem invalidateField_g (s : State) : (invalidateField s).g = s.g := rfl
@[simp] theorem invalidateField_r (s : State) : (invalidateField s).r = s.r := rfl
@[simp] theorem invalidateField_feedcnt (s : State) : (invalidateField s).feedcnt = 0 := rfl
@[simp] theorem invalidateField_running (s : State) : (invalidateField s).running = s.running := rfl
@[simp] theorem invalidateField_kMax (s : State) : (invalidateField s).kMax = s.kMax := rfl
@[simp] theorem invalidateField_events (s : State) : (invalidateField s).events = s.events := rfl
@[simp] theorem invalidateField_response (s : State) : (invalidateField s).response = s.response := rfl
@[simp] theorem invalidateField_draws (s : State) : (invalidateField s).draws = s.draws := rfl

@[simp] theorem installField_arg0 (F : FieldCfg) (T : Tables) (s : State) : (installField F T s).arg0 = s.arg0 := rfl
@[simp] theorem installField_arg1 (F : FieldCfg) (T : Tables) (s : State) : (installField F T s).arg1 = s.arg1 := rfl
@[simp] theorem installField_result (F : FieldCfg) (T : Tables) (s : State) : (installField F T s).result = s.result := rfl
@[simp] theorem installField_errcode (F : FieldCfg) (T : Tables) (s : State) : (installField F T s).errcode = s.errcode := rfl
@[simp] theorem installField_c (F : FieldCfg) (T : Tables) (s : State) : (installField F T s).c = s.c := rfl
@[simp] theorem installField_z (F : FieldCfg) (T : Tables) (s : State) : (installField F T s).z = s.z := rfl
@[simp] theorem installField_gt (F : FieldCfg) (T : Tables) (s : State) : (installField F T s).gt = s.gt := rfl
@[simp] theorem installField_eq (F : FieldCfg) (T : Tables) (s : State) : (installField F T s).eq = s.eq := rfl
@[simp] theorem installField_big (F : FieldCfg) (T : Tables) (s : State) : (installField F T s).big = s.big := rfl
@[simp] theorem installField_fieldOk (F : FieldCfg) (T : Tables) (s : State) : (installField F T s).fieldOk = true := rfl
@[simp] theorem installField_field (F : FieldCfg) (T : Tables) (s : State) : (installField F T s).field = F := rfl
@[simp] theorem installField_log (F : FieldCfg) (T : Tables) (s : State) : (installField F T s).log = overwrite s.log (toStore T.log) := rfl
@[simp] theorem installField_alog (F : FieldCfg) (T : Tables) (s : State) : (installField F T s).alog = overwrite s.alog (toStore T.alog) := rfl
@[simp] theorem installField_genOk (F : FieldCfg) (T : Tables) (s : State) : (installField F T s).genOk = false := rfl
@[simp] theorem installField_k (F : FieldCfg) (T : Tables) (s : State) : (installField F T s).k = 0 := rfl
@[simp] theorem installField_g (F : FieldCfg) (T : Tables) (s : State) : (installField F T s).g = s.g := rfl
@[simp] theorem installField_r (F : FieldCfg) (T : Tables) (s : State) : (installField F T s).r = s.r := rfl
@[simp] theorem installField_feedcnt (F : FieldCfg) (T : Tables) (s : State) : (installField F T s).feedcnt = 0 := rfl
@[simp] theorem installField_running (F : FieldCfg) (T : Tables) (s : State) : (installField F T s).running = s.running := rfl
@[simp] theorem installField_kMax (F : FieldCfg) (T : Tables) (s : State) : (installField F T s).kMax = s.kMax := rfl
@[simp] theorem installField_events (F : FieldCfg) (T : Tables) (s : State) : (installField F T s).events = s.events := rfl
@[simp] theorem installField_response (F : FieldCfg) (T : Tables) (s : State) : (installField F T s).response = s.response := rfl
@[simp] theorem installField_draws (F : FieldCfg) (T : Tables) (s : State) : (installField F T s).draws = s.draws := rfl

@[simp] theorem installGen_arg0 (n : Nat) (p : List Nat) (s : State) : (installGen n p s).arg0 = s.arg0 := rfl
@[simp] theorem installGen_arg1 (n : Nat) (p : List Nat) (s : State) : (installGen n p s).arg1 = s.arg1 := rfl
@[simp] theorem installGen_result (n : Nat) (p : List Nat) (s : State) : (installGen n p s).result = s.result := rfl
@[simp] theorem installGen_errcode (n : Nat) (p : List Nat) (s : State) : (installGen n p s).errcode = s.errcode := rfl
@[simp] theorem installGen_c (n : Nat) (p : List Nat) (s : State) : (installGen n p s).c = s.c := rfl
@[simp] theorem installGen_z (n : Nat) (p : List Nat) (s : State) : (installGen n p s).z = s.z := rfl
@[simp] theorem installGen_gt (n : Nat) (p : List Nat) (s : State) : (installGen n p s).gt = s.gt := rfl
@[simp] theorem installGen_eq (n : Nat) (p : List Nat) (s : State) : (installGen n p s).eq = s.eq := rfl
@[simp] theorem installGen_big (n : Nat) (p : List Nat) (s : State) : (installGen n p s).big = s.big := rfl
@[simp] theorem installGen_fieldOk (n : Nat) (p : List Nat) (s : State) : (installGen n p s).fieldOk = s.fieldOk := rfl
@[simp] theorem installGen_field (n : Nat) (p : List Nat) (s : State) : (installGen n p s).field = s.field := rfl
@[simp] theorem installGen_log (n : Nat) (p : List Nat) (s : State) : (installGen n p s).log = s.log := rfl
@[simp] theorem installGen_alog (n : Nat) (p : List Nat) (s : State) : (installGen n p s).alog = s.alog := rfl
@[simp] theorem installGen_genOk (n : Nat) (p : List Nat) (s : State) : (installGen n p s).genOk = true := rfl
@[simp] theorem installGen_k (n : Nat) (p : List Nat) (s : State) : (installGen n p s).k = BitVec.ofNat 13 n := rfl
@[simp] theorem installGen_g (n : Nat) (p : List Nat) (s : State) : (installGen n p s).g = overwrite s.g (toStore p) := rfl
@[simp] theorem installGen_r (n : Nat) (p : List Nat) (s : State) : (installGen n p s).r = overwrite s.r (zeroStore n) := rfl
@[simp] theorem installGen_feedcnt (n : Nat) (p : List Nat) (s : State) : (installGen n p s).feedcnt = 0 := rfl
@[simp] theorem installGen_running (n : Nat) (p : List Nat) (s : State) : (installGen n p s).running = s.running := rfl
@[simp] theorem installGen_kMax (n : Nat) (p : List Nat) (s : State) : (installGen n p s).kMax = s.kMax := rfl
@[simp] theorem installGen_events (n : Nat) (p : List Nat) (s : State) : (installGen n p s).events = s.events := rfl
@[simp] theorem installGen_response (n : Nat) (p : List Nat) (s : State) : (installGen n p s).response = s.response := rfl
@[simp] theorem installGen_draws (n : Nat) (p : List Nat) (s : State) : (installGen n p s).draws = s.draws := rfl

@[simp] theorem feedEffect_arg0 (d : Nat) (s : State) : (feedEffect d s).arg0 = s.arg0 := rfl
@[simp] theorem feedEffect_arg1 (d : Nat) (s : State) : (feedEffect d s).arg1 = s.arg1 := rfl
@[simp] theorem feedEffect_result (d : Nat) (s : State) : (feedEffect d s).result = s.result := rfl
@[simp] theorem feedEffect_errcode (d : Nat) (s : State) : (feedEffect d s).errcode = s.errcode := rfl
@[simp] theorem feedEffect_c (d : Nat) (s : State) : (feedEffect d s).c = s.c := rfl
@[simp] theorem feedEffect_z (d : Nat) (s : State) : (feedEffect d s).z = s.z := rfl
@[simp] theorem feedEffect_gt (d : Nat) (s : State) : (feedEffect d s).gt = s.gt := rfl
@[simp] theorem feedEffect_eq (d : Nat) (s : State) : (feedEffect d s).eq = s.eq := rfl
@[simp] theorem feedEffect_big (d : Nat) (s : State) : (feedEffect d s).big = s.big := rfl
@[simp] theorem feedEffect_fieldOk (d : Nat) (s : State) : (feedEffect d s).fieldOk = s.fieldOk := rfl
@[simp] theorem feedEffect_field (d : Nat) (s : State) : (feedEffect d s).field = s.field := rfl
@[simp] theorem feedEffect_log (d : Nat) (s : State) : (feedEffect d s).log = s.log := rfl
@[simp] theorem feedEffect_alog (d : Nat) (s : State) : (feedEffect d s).alog = s.alog := rfl
@[simp] theorem feedEffect_genOk (d : Nat) (s : State) : (feedEffect d s).genOk = s.genOk := rfl
@[simp] theorem feedEffect_k (d : Nat) (s : State) : (feedEffect d s).k = s.k := rfl
@[simp] theorem feedEffect_g (d : Nat) (s : State) : (feedEffect d s).g = s.g := rfl
@[simp] theorem feedEffect_r (d : Nat) (s : State) : (feedEffect d s).r = overwrite s.r (toStore (s.field.feedStep s.genCoeffs s.remCoeffs d)) := rfl
@[simp] theorem feedEffect_feedcnt (d : Nat) (s : State) : (feedEffect d s).feedcnt = s.feedcnt + 1 := rfl
@[simp] theorem feedEffect_running (d : Nat) (s : State) : (feedEffect d s).running = s.running := rfl
@[simp] theorem feedEffect_kMax (d : Nat) (s : State) : (feedEffect d s).kMax = s.kMax := rfl
@[simp] theorem feedEffect_events (d : Nat) (s : State) : (feedEffect d s).events = s.events := rfl
@[simp] theorem feedEffect_response (d : Nat) (s : State) : (feedEffect d s).response = s.response := rfl
@[simp] theorem feedEffect_draws (d : Nat) (s : State) : (feedEffect d s).draws = s.draws := rfl

@[simp] theorem resetBlock_arg0 (s : State) : (resetBlock s).arg0 = 0 := rfl
@[simp] theorem resetBlock_arg1 (s : State) : (resetBlock s).arg1 = 0 := rfl
@[simp] theorem resetBlock_result (s : State) : (resetBlock s).result = 0 := rfl
@[simp] theorem resetBlock_errcode (s : State) : (resetBlock s).errcode = .noError := rfl
@[simp] theorem resetBlock_c (s : State) : (resetBlock s).c = false := rfl
@[simp] theorem resetBlock_z (s : State) : (resetBlock s).z = false := rfl
@[simp] theorem resetBlock_gt (s : State) : (resetBlock s).gt = false := rfl
@[simp] theorem resetBlock_eq (s : State) : (resetBlock s).eq = false := rfl
@[simp] theorem resetBlock_big (s : State) : (resetBlock s).big = { b0 := 0, b1 := 0, b2 := 0, b3 := 0 } := rfl
@[simp] theorem resetBlock_fieldOk (s : State) : (resetBlock s).fieldOk = false := rfl
@[simp] theorem resetBlock_field (s : State) : (resetBlock s).field = .zero := rfl
@[simp] theorem resetBlock_log (s : State) : (resetBlock s).log = zeroStore 4096 := rfl
@[simp] theorem resetBlock_alog (s : State) : (resetBlock s).alog = zeroStore 4095 := rfl
@[simp] theorem resetBlock_genOk (s : State) : (resetBlock s).genOk = false := rfl
@[simp] theorem resetBlock_k (s : State) : (resetBlock s).k = 0 := rfl
@[simp] theorem resetBlock_g (s : State) : (resetBlock s).g = zeroStore (s.kMax.toNat + 1) := rfl
@[simp] theorem resetBlock_r (s : State) : (resetBlock s).r = zeroStore s.kMax.toNat := rfl
@[simp] theorem resetBlock_feedcnt (s : State) : (resetBlock s).feedcnt = 0 := rfl
@[simp] theorem resetBlock_running (s : State) : (resetBlock s).running = none := rfl
@[simp] theorem resetBlock_kMax (s : State) : (resetBlock s).kMax = s.kMax := rfl
@[simp] theorem resetBlock_events (s : State) : (resetBlock s).events = s.events := rfl
@[simp] theorem resetBlock_response (s : State) : (resetBlock s).response = s.response := rfl
@[simp] theorem resetBlock_draws (s : State) : (resetBlock s).draws = s.draws := rfl

end Sys2Proof.Machine
end

