-- ==== Sys2Proof/Laws/Ops.lean ====
section
/-! SUPPORT. What each shared operation can do, said once: the checks of a command, the latch, the big registers, the
stores and the window map. -/

namespace Sys2Proof.Machine

@[simp] theorem firstError_nil : firstError [] = none := rfl
@[simp] theorem firstError_none_cons (l : List (Option ErrorCode)) : firstError (none :: l) = firstError l := rfl
@[simp] theorem firstError_some_cons (e : ErrorCode) (l : List (Option ErrorCode)) :
    firstError (some e :: l) = some e := rfl

@[simp] theorem failIf_true (e : ErrorCode) : failIf true e = some e := rfl
@[simp] theorem failIf_false (e : ErrorCode) : failIf false e = none := rfl

/-- Everything a command can do: latch the first failing check's code, or have its effect. -/
theorem command_cases {checks : List (Option ErrorCode)} {effect : State → State} {s t : State}
    (h : command checks effect s = .next t) :
    (∃ e, firstError checks = some e ∧ t = latch e s) ∨ (firstError checks = none ∧ t = effect s) := by
  unfold command raise at h
  split at h <;> cases h
  · next e he => exact .inl ⟨e, he, rfl⟩
  · next he => exact .inr ⟨he, rfl⟩

/-- Everything a configure can do: latch the first failing check's code over an invalidated field, or have its
effect. -/
theorem configure_cases {checks : List (Option ErrorCode)} {effect : State → State} {s t : State}
    (h : configure checks effect s = .next t) :
    (∃ e, firstError checks = some e ∧ t = latch e (invalidateField s)) ∨
      (firstError checks = none ∧ t = effect s) := by
  unfold configure raise at h
  split at h <;> cases h
  · next e he => exact .inl ⟨e, he, rfl⟩
  · next he => exact .inr ⟨he, rfl⟩

theorem command_of_error {checks : List (Option ErrorCode)} {e : ErrorCode} (effect : State → State) (s : State)
    (h : firstError checks = some e) : command checks effect s = .next (latch e s) := by
  simp [command, raise, h]

theorem command_of_none {checks : List (Option ErrorCode)} (effect : State → State) (s : State)
    (h : firstError checks = none) : command checks effect s = .next (effect s) := by
  simp [command, h]

theorem configure_of_error {checks : List (Option ErrorCode)} {e : ErrorCode} (effect : State → State) (s : State)
    (h : firstError checks = some e) : configure checks effect s = .next (latch e (invalidateField s)) := by
  simp [configure, raise, h]

theorem configure_of_none {checks : List (Option ErrorCode)} (effect : State → State) (s : State)
    (h : firstError checks = none) : configure checks effect s = .next (effect s) := by
  simp [configure, h]

/-- A latched code is kept (R182). -/
theorem latch_of_error {e : ErrorCode} {s : State} (h : s.errcode ≠ .noError) : latch e s = s := by
  simp [latch, h]

@[simp] theorem BigFile.get_set_same (f : BigFile) (i : BigReg) (v : Big) : (f.set i v).get i = v := by
  cases i <;> rfl

theorem BigFile.get_set_other (f : BigFile) {i j : BigReg} (v : Big) (h : j ≠ i) : (f.set i v).get j = f.get j := by
  cases i <;> cases j <;> first | rfl | exact absurd rfl h

@[simp] theorem WindowReg.ofAddr_addr (reg : WindowReg) : WindowReg.ofAddr reg.addr = reg := by
  cases reg <;> rfl

@[simp] theorem ofStore_length (l : List Elem) : (ofStore l).length = l.length := by simp [ofStore]
@[simp] theorem toStore_length (l : List Nat) : (toStore l).length = l.length := by simp [toStore]

/-- Storing values below 4096 loses nothing. -/
theorem ofStore_toStore {l : List Nat} (h : ∀ x ∈ l, x < 4096) : ofStore (toStore l) = l := by
  induction l with
  | nil => rfl
  | cons a l ih =>
    have ha : a < 4096 := h a (by simp)
    have ih' := ih fun x hx => h x (by simp [hx])
    simp only [ofStore, toStore, List.map_cons] at ih' ⊢
    rw [ih']
    simp [Nat.mod_eq_of_lt ha]

theorem entry_eq_ofStore_getD (l : List Elem) (i : Nat) : entry l i = (ofStore l).getD i 0 := by
  simp only [entry, ofStore, List.getD_eq_getElem?_getD, List.getElem?_map]
  cases l[i]? <;> rfl

@[simp] theorem zeroStore_length (n : Nat) : (zeroStore n).length = n := List.length_replicate
@[simp] theorem ofStore_zeroStore (n : Nat) : ofStore (zeroStore n) = List.replicate n 0 := by
  simp [ofStore, zeroStore]

@[simp] theorem overwrite_length (store new : List Elem) : (overwrite store new).length = store.length := by
  induction store generalizing new with
  | nil => rfl
  | cons _ store ih => cases new <;> simp [overwrite, ih]

/-- Everything a write of entries that fit does to a store. -/
theorem overwrite_eq {store new : List Elem} (h : new.length ≤ store.length) :
    overwrite store new = new ++ store.drop new.length := by
  induction store generalizing new with
  | nil => simp_all [overwrite]
  | cons _ store ih =>
    cases new with
    | nil => rfl
    | cons x new => simpa [overwrite] using ih (by simpa using h)

theorem overwrite_take {store new : List Elem} (h : new.length ≤ store.length) :
    (overwrite store new).take new.length = new := by simp [overwrite_eq h]

theorem entry_overwrite_new {store new : List Elem} (h : new.length ≤ store.length) {i : Nat} (hi : i < new.length) :
    entry (overwrite store new) i = entry new i := by
  simp [entry, overwrite_eq h, List.getD_eq_getElem?_getD, List.getElem?_append_left hi]

theorem entry_overwrite_old {store new : List Elem} (h : new.length ≤ store.length) {i : Nat} (hi : new.length ≤ i) :
    entry (overwrite store new) i = entry store i := by
  simp [entry, overwrite_eq h, List.getD_eq_getElem?_getD, List.getElem?_append_right hi, hi]

/-- The live generator and remainder after rs.start, if they fit. -/
theorem installGen_genCoeffs {k : Nat} {g : List Nat} {s : State} (hk : k < 8192) (hlen : g.length = k + 1)
    (hfit : k + 1 ≤ s.g.length) (hg : ∀ x ∈ g, x < 4096) : (installGen k g s).genCoeffs = g := by
  have h := overwrite_take (store := s.g) (new := toStore g) (by simpa [hlen] using hfit)
  rw [toStore_length, hlen] at h
  rw [State.genCoeffs, State.kVal, installGen_k, installGen_g, BitVec.toNat_ofNat, Nat.mod_eq_of_lt hk, ofStore,
    ← List.map_take, h]
  exact ofStore_toStore hg

theorem installGen_remCoeffs {k : Nat} {g : List Nat} {s : State} (hk : k < 8192) (hfit : k ≤ s.r.length) :
    (installGen k g s).remCoeffs = List.replicate k 0 := by
  have h := overwrite_take (store := s.r) (new := zeroStore k) (by simpa using hfit)
  rw [zeroStore_length] at h
  rw [State.remCoeffs, State.kVal, installGen_k, installGen_r, BitVec.toNat_ofNat, Nat.mod_eq_of_lt hk, ofStore,
    ← List.map_take, h]
  exact ofStore_zeroStore k

/-- What a completing command does (R204, R205). -/
theorem finishCommand_running {s : State} {w : Word} (h : s.running = some w) :
    finishCommand s = execWord w { s with running := none } := by
  simp [finishCommand, h]

theorem execWord_ok {w : Word} {i : Instr} (s : State) (h : decode w = .ok i) : execWord w s = exec i s := by
  simp [execWord, h]

theorem execWord_error {w : Word} {e : DecodeError} (s : State) (h : decode w = .error e) :
    execWord w s = .next (latch .illegal s) := by
  simp [execWord, raise, h]

/-- Everything one event can do to the block (log 1). -/
theorem takeEvent_cases {e : Event} {s t : State} (h : takeEvent e s = .next t) :
    (∃ a, e = .access a ∧ a.be = 0b1111 ∧
      ((a.we = true ∧ t = { writeWindow (.ofAddr a.addr) a.wdata s with response := .written }) ∨
        (a.we = false ∧ t = readAccess (.ofAddr a.addr) s))) ∨
      (e = .finish ∧ finishCommand s = .next t) ∨ (e = .hardReset ∧ t = resetBlock s) := by
  cases e with
  | access a =>
    refine .inl ⟨a, rfl, ?_⟩
    simp only [takeEvent, busAccess] at h
    split at h
    · cases h
    · next hbe =>
      split at h <;> next hwe => cases h; simp_all
  | finish => exact .inr (.inl ⟨rfl, h⟩)
  | hardReset => cases h; exact .inr (.inr ⟨rfl, rfl⟩)

end Sys2Proof.Machine
end

