-- ==== Sys2Proof/Laws/PerInstr.lean ====
section
/-! SUPPORT. For each command: its word matches the row of the opcode table that carries its mnemonic (R81, R85). -/

namespace Sys2Proof.Laws.EncodesItsRow

/-- The word of a well-formed command matches the table's row of its mnemonic. -/
def Statement (i : Instr) : Prop :=
  i.wf = true → ∃ row ∈ opcodeTable, row.mnemonic = i.mnemonic ∧ row.matchesWord (encode i) = true

theorem nop : Statement .nop :=
  fun _ => ⟨_, List.mem_of_getElem? (i := 0) rfl, rfl, by decide⟩

theorem clrerr : Statement .clrerr :=
  fun _ => ⟨_, List.mem_of_getElem? (i := 1) rfl, rfl, by decide⟩

theorem sreset : Statement .sreset :=
  fun _ => ⟨_, List.mem_of_getElem? (i := 2) rfl, rfl, by decide⟩

theorem gfCfgbin (imm : Nat) : Statement (.gfCfgbin imm) := by
  intro h
  simp only [Instr.wf, decide_eq_true_eq] at h
  exact ⟨_, List.mem_of_getElem? (i := 3) rfl, rfl,
    matches_of_fields (opc := 0x10) (rd := 0) (ra := 0) (rb := 0) 3 3 3 0xE000 rfl rfl
      (by decide) (by decide) (by decide) (by decide) (by omega) BitVec.zero_and BitVec.zero_and BitVec.zero_and
      (ofNat_and_high (n := 13) (mask := 0xE000) h (by decide))⟩

theorem gfCfgprime (imm : Nat) : Statement (.gfCfgprime imm) := by
  intro h
  simp only [Instr.wf, decide_eq_true_eq] at h
  exact ⟨_, List.mem_of_getElem? (i := 4) rfl, rfl,
    matches_of_fields (opc := 0x11) (rd := 0) (ra := 0) (rb := 0) 3 3 3 0xE000 rfl rfl
      (by decide) (by decide) (by decide) (by decide) (by omega) BitVec.zero_and BitVec.zero_and BitVec.zero_and
      (ofNat_and_high (n := 13) (mask := 0xE000) h (by decide))⟩

theorem gfMul : Statement .gfMul :=
  fun _ => ⟨_, List.mem_of_getElem? (i := 5) rfl, rfl, by decide⟩

theorem gfAdd : Statement .gfAdd :=
  fun _ => ⟨_, List.mem_of_getElem? (i := 6) rfl, rfl, by decide⟩

theorem gfExp : Statement .gfExp :=
  fun _ => ⟨_, List.mem_of_getElem? (i := 7) rfl, rfl, by decide⟩

theorem gfLog : Statement .gfLog :=
  fun _ => ⟨_, List.mem_of_getElem? (i := 8) rfl, rfl, by decide⟩

theorem rsStart (imm : Nat) : Statement (.rsStart imm) := by
  intro h
  simp only [Instr.wf, decide_eq_true_eq] at h
  exact ⟨_, List.mem_of_getElem? (i := 9) rfl, rfl,
    matches_of_fields (opc := 0x20) (rd := 0) (ra := 0) (rb := 0) 3 3 3 0xE000 rfl rfl
      (by decide) (by decide) (by decide) (by decide) (by omega) BitVec.zero_and BitVec.zero_and BitVec.zero_and
      (ofNat_and_high (n := 13) (mask := 0xE000) h (by decide))⟩

theorem rsFeed (imm : Nat) : Statement (.rsFeed imm) := by
  intro h
  simp only [Instr.wf, decide_eq_true_eq] at h
  exact ⟨_, List.mem_of_getElem? (i := 10) rfl, rfl,
    matches_of_fields (opc := 0x21) (rd := 0) (ra := 0) (rb := 0) 3 3 3 0xF000 rfl rfl
      (by decide) (by decide) (by decide) (by decide) (by omega) BitVec.zero_and BitVec.zero_and BitVec.zero_and
      (ofNat_and_high (n := 12) (mask := 0xF000) h (by decide))⟩

theorem rsRdpar (imm : Nat) : Statement (.rsRdpar imm) := by
  intro h
  simp only [Instr.wf, decide_eq_true_eq] at h
  exact ⟨_, List.mem_of_getElem? (i := 11) rfl, rfl,
    matches_of_fields (opc := 0x22) (rd := 0) (ra := 0) (rb := 0) 3 3 3 0xE000 rfl rfl
      (by decide) (by decide) (by decide) (by decide) (by omega) BitVec.zero_and BitVec.zero_and BitVec.zero_and
      (ofNat_and_high (n := 13) (mask := 0xE000) h (by decide))⟩

theorem rsRdgen (imm : Nat) : Statement (.rsRdgen imm) := by
  intro h
  simp only [Instr.wf, decide_eq_true_eq] at h
  exact ⟨_, List.mem_of_getElem? (i := 12) rfl, rfl,
    matches_of_fields (opc := 0x23) (rd := 0) (ra := 0) (rb := 0) 3 3 3 0xE000 rfl rfl
      (by decide) (by decide) (by decide) (by decide) (by omega) BitVec.zero_and BitVec.zero_and BitVec.zero_and
      (ofNat_and_high (n := 13) (mask := 0xE000) h (by decide))⟩

theorem rsClear : Statement .rsClear :=
  fun _ => ⟨_, List.mem_of_getElem? (i := 13) rfl, rfl, by decide⟩

theorem bigWr (rd : BigReg) (chunk : Nat) : Statement (.bigWr rd chunk) := by
  intro h
  simp only [Instr.wf, decide_eq_true_eq] at h
  exact ⟨_, List.mem_of_getElem? (i := 14) rfl, rfl,
    matches_of_fields (opc := 0x30) (ra := 0) (rb := 0) 0 3 3 0xFFFC rfl rfl
      (by decide) rd.num_lt (by decide) (by decide) (by omega) BitVec.and_zero BitVec.zero_and BitVec.zero_and
      (ofNat_and_high (n := 2) (mask := 0xFFFC) h (by decide))⟩

theorem bigRd (ra : BigReg) (chunk : Nat) : Statement (.bigRd ra chunk) := by
  intro h
  simp only [Instr.wf, decide_eq_true_eq] at h
  exact ⟨_, List.mem_of_getElem? (i := 15) rfl, rfl,
    matches_of_fields (opc := 0x31) (rd := 0) (rb := 0) 3 0 3 0xFFFC rfl rfl
      (by decide) (by decide) ra.num_lt (by decide) (by omega) BitVec.zero_and BitVec.and_zero BitVec.zero_and
      (ofNat_and_high (n := 2) (mask := 0xFFFC) h (by decide))⟩

theorem bigClr (rd : BigReg) : Statement (.bigClr rd) := by
  intro _
  exact ⟨_, List.mem_of_getElem? (i := 16) rfl, rfl, by cases rd <;> decide⟩

theorem bigAdd (rd ra rb : BigReg) : Statement (.bigAdd rd ra rb) := by
  intro _
  exact ⟨_, List.mem_of_getElem? (i := 17) rfl, rfl, by cases rd <;> cases ra <;> cases rb <;> decide⟩

theorem bigSub (rd ra rb : BigReg) : Statement (.bigSub rd ra rb) := by
  intro _
  exact ⟨_, List.mem_of_getElem? (i := 18) rfl, rfl, by cases rd <;> cases ra <;> cases rb <;> decide⟩

theorem bigCmp (ra rb : BigReg) : Statement (.bigCmp ra rb) := by
  intro _
  exact ⟨_, List.mem_of_getElem? (i := 19) rfl, rfl, by cases ra <;> cases rb <;> decide⟩

theorem bigShl (rd ra : BigReg) (sh : Nat) : Statement (.bigShl rd ra sh) := by
  intro h
  simp only [Instr.wf, decide_eq_true_eq] at h
  exact ⟨_, List.mem_of_getElem? (i := 20) rfl, rfl,
    matches_of_fields (opc := 0x36) (rb := 0) 0 0 3 0xFF80 rfl rfl
      (by decide) rd.num_lt ra.num_lt (by decide) (by omega) BitVec.and_zero BitVec.and_zero BitVec.zero_and
      (ofNat_and_high (n := 7) (mask := 0xFF80) h (by decide))⟩

theorem bigShr (rd ra : BigReg) (sh : Nat) : Statement (.bigShr rd ra sh) := by
  intro h
  simp only [Instr.wf, decide_eq_true_eq] at h
  exact ⟨_, List.mem_of_getElem? (i := 21) rfl, rfl,
    matches_of_fields (opc := 0x37) (rb := 0) 0 0 3 0xFF80 rfl rfl
      (by decide) rd.num_lt ra.num_lt (by decide) (by omega) BitVec.and_zero BitVec.and_zero BitVec.zero_and
      (ofNat_and_high (n := 7) (mask := 0xFF80) h (by decide))⟩

theorem bigMul10a (rd ra : BigReg) (digit : Nat) : Statement (.bigMul10a rd ra digit) := by
  intro h
  simp only [Instr.wf, decide_eq_true_eq] at h
  exact ⟨_, List.mem_of_getElem? (i := 22) rfl, rfl,
    matches_of_fields (opc := 0x38) (rb := 0) 0 0 3 0xFFF0 rfl rfl
      (by decide) rd.num_lt ra.num_lt (by decide) (by omega) BitVec.and_zero BitVec.and_zero BitVec.zero_and
      (ofNat_and_high (n := 4) (mask := 0xFFF0) h (by decide))⟩

end Sys2Proof.Laws.EncodesItsRow
end

