-- ==== Sys2Proof/Laws/Product.lean ====
section
/-! SUPPORT. The carry-less product as an XOR of shifted operands, its linearity, and its compatibility with
multiplication by x. -/

namespace Sys2Proof.Machine

/-- The XOR of T^i(a) over the bits i < n set in b. -/
def xorSum (T : Nat → Nat) (a b : Nat) : Nat → Nat
  | 0 => 0
  | n + 1 => xorSum T a b n ^^^ (if b.testBit n then T^[n] a else 0)

theorem clmul_foldl_eq (poly m b n a : Nat) :
    (List.range n).foldl (clmulStep b poly m) (a, 0) = ((xtime poly m)^[n] a, xorSum (xtime poly m) a b n) := by
  induction n with
  | zero => rfl
  | succ n ih =>
    rw [List.range_succ, List.foldl_append, ih]
    simp only [List.foldl_cons, List.foldl_nil, clmulStep, Function.iterate_succ_apply', xorSum, Prod.mk.injEq, true_and]
    split <;> simp

/-- The product of R8 as an XOR of shifted operands. -/
theorem clmulmod_eq (a b poly m : Nat) : clmulmod a b poly m = xorSum (xtime poly m) a b m := by
  rw [clmulmod, clmul_foldl_eq]

/-- XOR of four, the middle two exchanged. -/
theorem xor_exchange (a b c d : Nat) : a ^^^ b ^^^ (c ^^^ d) = a ^^^ c ^^^ (b ^^^ d) := by
  apply Nat.eq_of_testBit_eq
  intro i
  simp only [Nat.testBit_xor]
  cases a.testBit i <;> cases b.testBit i <;> cases c.testBit i <;> cases d.testBit i <;> rfl

section
variable {T : Nat → Nat}

/-- The sum is linear in the operand selecting the shifts. -/
theorem xorSum_xor_right (a b c n : Nat) : xorSum T a (b ^^^ c) n = xorSum T a b n ^^^ xorSum T a c n := by
  induction n with
  | zero => simp [xorSum]
  | succ n ih =>
    simp only [xorSum, ih, Nat.testBit_xor]
    rw [xor_exchange]
    congr 1
    cases b.testBit n <;> cases c.testBit n <;> simp

@[simp] theorem xorSum_zero_right (a n : Nat) : xorSum T a 0 n = 0 := by
  induction n with
  | zero => rfl
  | succ n ih => simp [xorSum, ih]

@[simp] theorem iterate_zero_arg (h0 : T 0 = 0) (j : Nat) : T^[j] 0 = 0 := by
  induction j with
  | zero => rfl
  | succ j ih => rw [Function.iterate_succ_apply', ih, h0]

theorem xorSum_zero_left (h0 : T 0 = 0) (b n : Nat) : xorSum T 0 b n = 0 := by
  induction n with
  | zero => rfl
  | succ n ih => simp [xorSum, ih, iterate_zero_arg h0]

theorem iterate_xor (hT : ∀ x y, T (x ^^^ y) = T x ^^^ T y) (a b n : Nat) : T^[n] (a ^^^ b) = T^[n] a ^^^ T^[n] b := by
  induction n with
  | zero => rfl
  | succ n ih => simp only [Function.iterate_succ_apply', ih, hT]

/-- The sum is linear in the operand that is shifted. -/
theorem xorSum_xor_left (hT : ∀ x y, T (x ^^^ y) = T x ^^^ T y) (a b c n : Nat) :
    xorSum T (a ^^^ b) c n = xorSum T a c n ^^^ xorSum T b c n := by
  induction n with
  | zero => simp [xorSum]
  | succ n ih =>
    simp only [xorSum, ih]
    rw [xor_exchange]
    congr 1
    split
    · exact iterate_xor hT a b n
    · simp

/-- The sum commutes with the shift. -/
theorem xorSum_apply (hT : ∀ x y, T (x ^^^ y) = T x ^^^ T y) (h0 : T 0 = 0) (a b n : Nat) :
    T (xorSum T a b n) = xorSum T (T a) b n := by
  induction n with
  | zero => exact h0
  | succ n ih =>
    simp only [xorSum, hT, ih]
    congr 1
    split
    · rw [← Function.iterate_succ_apply' T n a, Function.iterate_succ_apply]
    · exact h0

theorem xorSum_iterate (hT : ∀ x y, T (x ^^^ y) = T x ^^^ T y) (h0 : T 0 = 0) (a b n j : Nat) :
    T^[j] (xorSum T a b n) = xorSum T (T^[j] a) b n := by
  induction j with
  | zero => rfl
  | succ j ih => rw [Function.iterate_succ_apply', ih, xorSum_apply hT h0, Function.iterate_succ_apply']

/-- The sum over a doubled selector is the sum over the selector of the operand shifted once more. -/
theorem xorSum_double (a b n : Nat) : xorSum T a (b <<< 1) (n + 1) = xorSum T (T a) b n := by
  induction n with
  | zero =>
    have : (b <<< 1).testBit 0 = false := by simp
    simp [xorSum, this]
  | succ n ih =>
    rw [xorSum, ih, xorSum]
    congr 1
    have : (b <<< 1).testBit (n + 1) = b.testBit n := by simp [Nat.testBit_shiftLeft]
    rw [this, Function.iterate_succ_apply]

end

/-- Below 2^m, shifting 1 needs no reduction. -/
theorem xtime_iterate_one {poly m j : Nat} (hj : j < m) : (xtime poly m)^[j] 1 = 2 ^ j := by
  induction j with
  | zero => rfl
  | succ j ih =>
    rw [Function.iterate_succ_apply', ih (by omega)]
    have hs : 2 ^ j <<< 1 = 2 ^ (j + 1) := by rw [Nat.shiftLeft_eq, ← Nat.pow_add]
    rw [xtime, hs, Nat.testBit_two_pow_of_ne (by omega)]
    simp

/-- Selecting the powers of x by the bits of b gives b back. -/
theorem xorSum_one {poly m n : Nat} (b : Nat) (hn : n ≤ m) : xorSum (xtime poly m) 1 b n = b % 2 ^ n := by
  induction n with
  | zero => simp [xorSum, Nat.mod_one]
  | succ n ih =>
    rw [xorSum, ih (by omega)]
    apply Nat.eq_of_testBit_eq
    intro i
    rw [Nat.testBit_xor, Nat.testBit_mod_two_pow, Nat.testBit_mod_two_pow]
    rcases Nat.lt_trichotomy i n with h | h | h
    · cases hb : b.testBit n <;>
        simp [h, Nat.lt_succ_of_lt h, xtime_iterate_one (show n < m by omega), Nat.ne_of_gt h]
    · subst h
      cases hb : b.testBit i <;> simp [xtime_iterate_one (show i < m by omega)]
    · cases hb : b.testBit n <;>
        simp [Nat.not_lt_of_lt h, show ¬i < n + 1 by omega, xtime_iterate_one (show n < m by omega),
          Nat.ne_of_lt h]

/-- x^m is the low part of poly: shifting m times is the combination poly selects (R8). -/
theorem xtime_iterate_top {poly m a : Nat} (hm : 1 ≤ m) (hlo : 2 ^ m ≤ poly) (hhi : poly < 2 ^ (m + 1))
    (ha : a < 2 ^ m) : (xtime poly m)^[m] a = xorSum (xtime poly m) a poly m := by
  have hT := xtime_xor poly m
  have h0 := xtime_zero poly m
  have hone : (xtime poly m)^[m] 1 = xorSum (xtime poly m) 1 poly m := by
    rw [xorSum_one poly (Nat.le_refl m)]
    obtain ⟨k, rfl⟩ : ∃ k, m = k + 1 := ⟨m - 1, by omega⟩
    rw [Function.iterate_succ_apply', xtime_iterate_one (by omega)]
    have hs : 2 ^ k <<< 1 = 2 ^ (k + 1) := by rw [Nat.shiftLeft_eq, ← Nat.pow_add]
    rw [xtime, hs, if_pos (by simp)]
    have hp : poly = 2 ^ (k + 1) + poly % 2 ^ (k + 1) := by
      rw [Nat.pow_succ] at hhi
      have hd : poly / 2 ^ (k + 1) = 1 := by
        rw [Nat.div_eq_iff (Nat.two_pow_pos _)]
        omega
      have h := Nat.div_add_mod poly (2 ^ (k + 1))
      rw [hd, Nat.mul_one] at h
      exact h.symm
    have hl := Nat.mod_lt poly (Nat.two_pow_pos (k + 1))
    generalize poly % 2 ^ (k + 1) = low at hp hl
    subst hp
    apply Nat.eq_of_testBit_eq
    intro i
    rw [Nat.testBit_xor, Nat.testBit_two_pow]
    rcases Nat.lt_trichotomy i (k + 1) with h | h | h
    · rw [Nat.testBit_two_pow_add_gt h]
      simp [Nat.ne_of_gt h]
    · subst h
      rw [Nat.testBit_two_pow_add_eq, Nat.testBit_lt_two_pow hl]
      simp
    · rw [Nat.testBit_lt_two_pow (hhi.trans_le (Nat.pow_le_pow_right (by decide) (by omega))),
        Nat.testBit_lt_two_pow (hl.trans (Nat.pow_lt_pow_right (by decide) h))]
      simp [Nat.ne_of_lt h]
  have key : ∀ n ≤ m, ∀ x, (xtime poly m)^[m] (xorSum (xtime poly m) 1 x n) =
      xorSum (xtime poly m) (xorSum (xtime poly m) 1 x n) poly m := by
    intro n hn x
    induction n with
    | zero =>
      simp only [xorSum, iterate_zero_arg h0, xorSum_zero_left h0]
    | succ n ih =>
      rw [xorSum, iterate_xor hT, ih (by omega), xorSum_xor_left hT]
      congr 1
      split
      · rw [← Function.iterate_add_apply, Nat.add_comm, Function.iterate_add_apply, hone, xorSum_iterate hT h0]
      · rw [iterate_zero_arg h0, xorSum_zero_left h0]
  have hx := key m (Nat.le_refl m) a
  rwa [xorSum_one a (Nat.le_refl m), Nat.mod_eq_of_lt ha] at hx

/-- The selector below 2^m can be cut at m. -/
theorem xorSum_succ_of_lt {T : Nat → Nat} {a b m : Nat} (hb : b < 2 ^ m) :
    xorSum T a b (m + 1) = xorSum T a b m := by
  simp [xorSum, Nat.testBit_lt_two_pow hb]

/-- Multiplying the second factor by x multiplies the product by x. -/
theorem clmulmod_xtime {poly m a b : Nat} (hm : 1 ≤ m) (hlo : 2 ^ m ≤ poly) (hhi : poly < 2 ^ (m + 1))
    (ha : a < 2 ^ m) (hb : b < 2 ^ m) :
    clmulmod a (xtime poly m b) poly m = xtime poly m (clmulmod a b poly m) := by
  have hT := xtime_xor poly m
  have h0 := xtime_zero poly m
  rw [clmulmod_eq, clmulmod_eq, ← xorSum_succ_of_lt (xtime_lt hlo hhi hb), xorSum_apply hT h0]
  have hx : xtime poly m b = b <<< 1 ^^^ (if (b <<< 1).testBit m then poly else 0) := by
    unfold xtime
    split <;> simp
  rw [hx, xorSum_xor_right, xorSum_double]
  split
  · have hpm : poly.testBit m = true := by
      have h1 : poly / 2 ^ m = 1 := by
        rw [Nat.div_eq_iff (Nat.two_pow_pos m)]
        rw [Nat.pow_succ] at hhi
        omega
      rw [Nat.testBit_eq_decide_div_mod_eq, h1]
      rfl
    rw [xorSum, hpm, ← xtime_iterate_top hm hlo hhi ha]
    simp
  · rw [xorSum_zero_right, Nat.xor_zero]

end Sys2Proof.Machine
end

