-- ==== Sys2Proof/Laws/Powers.lean ====
section
/-! SUPPORT. Products with powers of α are iterated table steps; over a valid field the powers below N are distinct and
are all the nonzero elements. -/

namespace Sys2Proof.Machine.FieldCfg

variable {F : FieldCfg}

theorem Shape.N_pos (h : F.Shape) : 1 < F.N := by
  have := h.two_lt_q
  have := h.q_eq
  omega

theorem Shape.add_zero (h : F.Shape) {a : Nat} (ha : a < F.q) : F.add a 0 = a := by
  obtain ⟨-, h⟩ := h
  unfold add
  unfold q at ha
  cases hk : F.kind <;> simp only [hk] at h ha ⊢
  · exact Nat.xor_zero a
  · exact Nat.mod_eq_of_lt ha

theorem add_comm (F : FieldCfg) (a b : Nat) : F.add a b = F.add b a := by
  unfold add
  cases F.kind
  · exact Nat.xor_comm a b
  · simp only [Nat.add_comm]

theorem Shape.mul_one (h : F.Shape) {a : Nat} (ha : a < F.q) : F.mul a 1 = a := by
  obtain ⟨-, h⟩ := h
  unfold mul
  unfold q at ha
  cases hk : F.kind <;> simp only [hk] at h ha ⊢
  · have := clmul_foldl_two_pow F.fmod.toNat F.m.toNat 0 F.m.toNat a 0
    rw [Nat.pow_zero] at this
    simp [clmulmod, this, show 0 < F.m.toNat by omega]
  · rw [Nat.mul_one, Nat.mod_eq_of_lt ha]

theorem step_zero (F : FieldCfg) : F.step 0 = 0 := by
  unfold step
  cases F.kind <;> simp

/-- Multiplying the second factor by α multiplies the product by α. -/
theorem Shape.mul_step (h : F.Shape) {a b : Nat} (ha : a < F.q) (hb : b < F.q) :
    F.mul a (F.step b) = F.step (F.mul a b) := by
  obtain ⟨-, h⟩ := h
  unfold mul step
  unfold q at ha hb
  cases hk : F.kind <;> simp only [hk] at h ha hb ⊢
  · exact clmulmod_xtime (by omega) h.2.2.1 h.2.2.2.1 ha hb
  · rw [Nat.mod_mul_mod, Nat.mul_mod_mod, Nat.mul_assoc]

theorem Shape.iterate_lt (h : F.Shape) {a : Nat} (ha : a < F.q) (e : Nat) : F.step^[e] a < F.q := by
  induction e with
  | zero => exact ha
  | succ e ih => rw [Function.iterate_succ_apply']; exact h.step_lt ih

/-- a·α^e is e table steps from a. -/
theorem Shape.mul_exp (h : F.Shape) {a : Nat} (ha : a < F.q) (e : Nat) : F.mul a (F.exp e) = F.step^[e] a := by
  induction e with
  | zero => exact h.mul_one ha
  | succ e ih =>
    have he : F.exp (e + 1) = F.step (F.exp e) := h.mul_alpha (F.exp e)
    rw [he, h.mul_step ha (h.exp_lt e), ih, Function.iterate_succ_apply']

theorem Shape.mul_zero (h : F.Shape) (a : Nat) : F.mul a 0 = 0 := by
  obtain ⟨-, h⟩ := h
  unfold mul
  cases F.kind
  · rw [clmulmod_eq, xorSum_zero_right]
  · simp

/-! A valid field -/

/-- The powers of α below N are distinct (R113). -/
theorem Valid.exp_ne (h : F.Valid) {i j : Nat} (hij : i < j) (hj : j < F.N) : F.exp i ≠ F.exp j := by
  intro heq
  have hs := h.1
  rw [hs.exp_eq_iterate, hs.exp_eq_iterate] at heq
  have hN : F.step^[F.N - j + i] 1 = 1 := by
    rw [Function.iterate_add_apply, heq, ← Function.iterate_add_apply, Nat.sub_add_cancel (Nat.le_of_lt hj),
      ← hs.exp_eq_iterate]
    exact h.2.1
  rw [← hs.exp_eq_iterate] at hN
  exact h.2.2 _ (by omega) (by omega) hN

/-- No power of α is 0 (R113). -/
theorem Valid.exp_pos (h : F.Valid) {e : Nat} (he : e ≤ F.N) : 0 < F.exp e := by
  have hs := h.1
  rw [Nat.pos_iff_ne_zero]
  intro h0
  have hz : ∀ n, F.step^[n] 0 = 0 := fun n => by
    induction n with
    | zero => rfl
    | succ n ih => rw [Function.iterate_succ_apply', ih, step_zero]
  have hN : F.exp F.N = 0 := by
    rw [hs.exp_eq_iterate, ← Nat.sub_add_cancel he, Function.iterate_add_apply, ← hs.exp_eq_iterate, h0, hz]
  rw [h.2.1] at hN
  exact absurd hN (by decide)

/-- Every nonzero element is a power of α (R113). -/
theorem Valid.exists_exp (h : F.Valid) {a : Nat} (h0 : 0 < a) (ha : a < F.q) : ∃ e, e < F.N ∧ F.exp e = a := by
  have hmem : a ∈ (Finset.range F.N).image F.exp := by
    have hsub : (Finset.range F.N).image F.exp ⊆ Finset.Ico 1 F.q := by
      intro x hx
      obtain ⟨e, he, rfl⟩ := Finset.mem_image.1 hx
      exact Finset.mem_Ico.2 ⟨h.exp_pos (Nat.le_of_lt (Finset.mem_range.1 he)), h.1.exp_lt e⟩
    have hinj : Set.InjOn F.exp (Finset.range F.N) := by
      intro i hi j hj heq
      rcases Nat.lt_trichotomy i j with hlt | hlt | hlt
      · exact absurd heq (h.exp_ne hlt (by simpa using hj))
      · exact hlt
      · exact absurd heq.symm (h.exp_ne hlt (by simpa using hi))
    have hcard : (Finset.Ico 1 F.q).card ≤ ((Finset.range F.N).image F.exp).card := by
      rw [Finset.card_image_of_injOn hinj, Finset.card_range, Nat.card_Ico, h.1.q_eq]
      omega
    rw [Finset.eq_of_subset_of_card_le hsub hcard]
    exact Finset.mem_Ico.2 ⟨h0, ha⟩
  obtain ⟨e, he, rfl⟩ := Finset.mem_image.1 hmem
  exact ⟨e, Finset.mem_range.1 he, rfl⟩

/-- Powers repeat with period N (R8). -/
theorem Valid.exp_add_N (h : F.Valid) (e : Nat) : F.exp (e + F.N) = F.exp e := by
  rw [h.1.exp_eq_iterate, Function.iterate_add_apply, ← h.1.exp_eq_iterate F.N, h.2.1, ← h.1.exp_eq_iterate]

theorem Valid.exp_mod (h : F.Valid) (e : Nat) : F.exp (e % F.N) = F.exp e := by
  induction e using Nat.strong_induction_on with
  | _ e ih =>
    by_cases he : e < F.N
    · rw [Nat.mod_eq_of_lt he]
    · have hN := h.1.N_pos
      rw [Nat.mod_eq_sub_mod (by omega), ih (e - F.N) (by omega), ← h.exp_add_N, Nat.sub_add_cancel (by omega)]

end Sys2Proof.Machine.FieldCfg
end

