-- ==== Sys2Proof/Tests/Slice0.lean ====
section
/-! SUPPORT. The model's own tests (expected values from the rules and 95_test_vectors.md). -/

namespace Sys2Proof.Machine.Tests

/-! WellFormed refuses an ill-formed term for each of its checks (R83, R89). -/

theorem test_wf_refuses_imm13 : (Instr.gfCfgbin 8192).wf = false ∧ (Instr.gfCfgprime 8192).wf = false ∧
    (Instr.rsStart 8192).wf = false ∧ (Instr.rsRdpar 8192).wf = false ∧ (Instr.rsRdgen 8192).wf = false := by decide
theorem test_wf_refuses_imm12 : (Instr.rsFeed 4096).wf = false := by decide
theorem test_wf_refuses_chunk : (Instr.bigWr .b0 4).wf = false ∧ (Instr.bigRd .b0 4).wf = false := by decide
theorem test_wf_refuses_shift : (Instr.bigShl .b0 .b0 128).wf = false ∧ (Instr.bigShr .b0 .b0 128).wf = false := by
  decide
theorem test_wf_refuses_digit : (Instr.bigMul10a .b0 .b0 16).wf = false := by decide
theorem test_wf_accepts_the_largest : (Instr.rsStart 8191).wf = true ∧ (Instr.rsFeed 4095).wf = true ∧
    (Instr.bigWr .b3 3).wf = true ∧ (Instr.bigShl .b3 .b3 127).wf = true ∧ (Instr.bigMul10a .b3 .b3 15).wf = true := by
  decide

/-! Every command's word, written from R81 to R85 and R89. -/

theorem test_decode_control : decode 0x00000000#32 = .ok .nop ∧ decode 0x01000000#32 = .ok .clrerr ∧
    decode 0x02000000#32 = .ok .sreset := by decide +kernel
theorem test_decode_field : decode 0x1000011D#32 = .ok (.gfCfgbin 0x11D) ∧
    decode 0x110003A1#32 = .ok (.gfCfgprime 929) ∧ decode 0x12000000#32 = .ok .gfMul ∧
    decode 0x13000000#32 = .ok .gfAdd ∧ decode 0x14000000#32 = .ok .gfExp ∧ decode 0x15000000#32 = .ok .gfLog := by
  decide +kernel
theorem test_decode_encoder : decode 0x2000000A#32 = .ok (.rsStart 10) ∧ decode 0x210000EC#32 = .ok (.rsFeed 236) ∧
    decode 0x22000009#32 = .ok (.rsRdpar 9) ∧ decode 0x23000005#32 = .ok (.rsRdgen 5) ∧
    decode 0x24000000#32 = .ok .rsClear := by decide +kernel
theorem test_decode_big : decode 0x30200003#32 = .ok (.bigWr .b2 3) ∧ decode 0x31080002#32 = .ok (.bigRd .b2 2) ∧
    decode 0x32300000#32 = .ok (.bigClr .b3) ∧ decode 0x33210000#32 = .ok (.bigAdd .b2 .b0 .b1) ∧
    decode 0x34010000#32 = .ok (.bigSub .b0 .b0 .b1) ∧ decode 0x350C0000#32 = .ok (.bigCmp .b3 .b0) ∧
    decode 0x3624006F#32 = .ok (.bigShl .b2 .b1 111) ∧ decode 0x37240004#32 = .ok (.bigShr .b2 .b1 4) ∧
    decode 0x38300003#32 = .ok (.bigMul10a .b3 .b0 3) := by decide +kernel

/-- The illegal words of L2.1. -/
theorem test_illegal_words :
    ([0x00000001#32, 0x01000100#32, 0x03000000#32, 0x0F000000#32, 0x16000000#32, 0x25000000#32, 0x39000000#32,
      0xFF000000#32, 0x7F000000#32, 0x10002000#32, 0x21001000#32, 0x12000001#32, 0x35100000#32, 0x33400000#32,
      0x32010000#32, 0x36000080#32, 0x38000010#32, 0x31000004#32, 0x30000004#32, 0x30040000#32].all
        fun w => match decode w with | .ok _ => false | .error _ => true) = true := by decide +kernel

theorem test_decode_table_word : decodeTableWord 32 0x34010000 = some (.bigSub .b0 .b0 .b1) ∧
    decodeTableWord 32 0x7F000000 = none := by decide +kernel

/-! One command on a small state. -/

/-- The next state, or the given one where the machine stops. -/
def after (o : Host.Outcome State Fault Refusal) (s : State) : State :=
  match o with
  | .next t => t
  | .fault _ | .refused _ => s

/-- Reset with K_MAX = 64 and the operand registers given. -/
def start (a0 a1 : Word) : State := { State.resetWith 64 with arg0 := a0, arg1 := a1 }

/-- Reset with B0 and B1 given. -/
def bigs (x y : Big) : State := { State.resetWith 64 with big := { b0 := x, b1 := y, b2 := 0, b3 := 0 } }

/-- BIN(0x13) with b = 1, after its configure command (P4). -/
def gf16 : State := after (exec (.gfCfgbin 0x13) (start 0 1)) (start 0 1)

/-- The same with a generator of degree 5 and the data 1 9 fed (P4). -/
def gf16Fed : State := after (runCommands [.rsStart 5, .rsFeed 1, .rsFeed 9] gf16) gf16

theorem test_clrerr : (after (exec .clrerr { start 0 0 with errcode := .logZero }) (start 0 0)).errcode = .noError := by
  decide
/-- L2.1: STATUS = 0x1E before sreset, all registers 0 after it. -/
theorem test_sreset : let t := after (exec .sreset { gf16Fed with c := true, errcode := .illegal }) gf16
    (windowTable.map (readWindow t)).drop 2 = List.replicate 14 0 ∧ t.running = none ∧ t.kMax = 64 := by
  decide +kernel
theorem test_cfgbin_row : (readWindow gf16 .fcfg, readWindow gf16 .falpha, readWindow gf16 .forder,
    readWindow gf16 .groot, readWindow gf16 .status) = (0x40013#32, 2#32, 15#32, 1#32, 2#32) := by decide +kernel
theorem test_cfgbin_not_primitive : readWindow (after (exec (.gfCfgbin 0x1F) (start 0 0)) (start 0 0)) .errcode = 3 := by
  decide +kernel
theorem test_cfgprime_row : (readWindow (after (exec (.gfCfgprime 7) (start 5 5)) (start 0 0)) .fcfg,
    readWindow (after (exec (.gfCfgprime 7) (start 5 5)) (start 0 0)) .groot) = (0x2007#32, 5#32) := by decide +kernel
theorem test_cfgprime_order : readWindow (after (exec (.gfCfgprime 7) (start 2 0)) (start 0 0)) .errcode = 4 := by
  decide +kernel
theorem test_alog : ofStore (gf16.alog.take 15) = [1, 2, 4, 8, 3, 6, 12, 11, 5, 10, 7, 14, 15, 13, 9] := by decide +kernel
/-- BIN(0x1069): 0xFFF · 0xFFF = 0x15D (L2.3). -/
theorem test_mul_largest : clmulmod 0xFFF 0xFFF 0x1069 12 = 0x15D ∧ clmulmod 0x53 0xCA 0x11D 8 = 0x8F := by
  decide +kernel
theorem test_add_binary : (after (exec .gfAdd { gf16 with arg0 := 9, arg1 := 12 }) gf16).result = 5 := by decide +kernel
theorem test_exp_wraps : (after (exec .gfExp { gf16 with arg0 := 19 }) gf16).result = 3 := by decide +kernel
theorem test_log : (after (exec .gfLog { gf16 with arg0 := 9 }) gf16).result = 14 := by decide +kernel
theorem test_log_range_before_zero : (after (exec .gfLog { gf16 with arg0 := 16 }) gf16).errcode = .range ∧
    (after (exec .gfLog { gf16 with arg0 := 0 }) gf16).errcode = .logZero := by decide +kernel
theorem test_start_generator : gf16Fed.genCoeffs = [1, 2, 6, 4, 11, 1] := by decide +kernel
theorem test_feed_remainder : gf16Fed.remCoeffs = [2, 5, 14, 14, 1] ∧ gf16Fed.feedcnt = 2 := by decide +kernel
theorem test_rdpar : (after (exec (.rsRdpar 0) gf16Fed) gf16).result = 1 ∧
    (after (exec (.rsRdpar 4) gf16Fed) gf16).result = 2 := by decide +kernel
theorem test_rdgen : (after (exec (.rsRdgen 4) gf16Fed) gf16).result = 11 := by decide +kernel
theorem test_clear : (after (exec .rsClear gf16Fed) gf16).remCoeffs = [0, 0, 0, 0, 0] := by decide +kernel
theorem test_wr_top_chunk : (after (exec (.bigWr .b0 3) { bigs 5 0 with arg0 := 0xFFFF }) (bigs 0 0)).bigVal .b0 =
    0xFFFF000000000000000000000005 := by decide +kernel
theorem test_wr_range : (after (exec (.bigWr .b0 3) { bigs 5 0 with arg0 := 0x10000 }) (bigs 0 0)).errcode = .range := by
  decide +kernel
theorem test_rd_chunk : (after (exec (.bigRd .b0 3) (bigs 0xFFFFDEADBEEF0123456789ABCDEF 0)) (bigs 0 0)).result =
    0x0000FFFF := by decide +kernel
theorem test_clr_keeps_gt : (after (exec (.bigClr .b0) { bigs 5 0 with gt := true, c := true }) (bigs 0 0)).gt = true := by
  decide +kernel
theorem test_add_wraps : statusWord (after (exec (.bigAdd .b2 .b0 .b1) (bigs (BitVec.allOnes 112) 1)) (bigs 0 0)) =
    0x30 := by decide +kernel
theorem test_sub_borrows : (after (exec (.bigSub .b0 .b0 .b1) (bigs 5 7)) (bigs 0 0)).bigVal .b0 = 2 ^ 112 - 2 := by
  decide +kernel
theorem test_cmp_unsigned : (after (exec (.bigCmp .b0 .b1) (bigs (2 ^ 111) (2 ^ 111 - 1))) (bigs 0 0)).gt = true := by
  decide +kernel
theorem test_shl_out : statusWord (after (exec (.bigShl .b2 .b0 112) (bigs 1 0)) (bigs 0 0)) = 0x30 := by decide +kernel
theorem test_shr_logical : (after (exec (.bigShr .b0 .b0 1) (bigs (2 ^ 111 + 1) 0)) (bigs 0 0)).bigVal .b0 = 2 ^ 110 := by
  decide +kernel
theorem test_mul10a : (after (exec (.bigMul10a .b3 .b0 3) (bigs 7 0)) (bigs 0 0)).bigVal .b3 = 73 := by decide +kernel
theorem test_mul10a_range : (after (exec (.bigMul10a .b0 .b0 10) (bigs 7 0)) (bigs 0 0)).errcode = .range := by
  decide +kernel

/-- 13 = 2 · 5 + 3 by the method of R162. -/
theorem test_divide : (match HostScript.divide (bigs 13 5) with
    | .next (t, quotient) => some (t.bigVal .b0, quotient)
    | .fault _ | .refused _ => none) = some (3, 2) := by decide +kernel

/-! The bus (L2.6). -/

theorem test_params : readWindow (start 0 0) .params = 0x4C700040 := by decide
/-- A write of 0 to CMD while a command runs is dropped and latches BUSY (R100, R206). -/
theorem test_busy_write : (after (takeEvent (HostScript.wr .cmd 0) { start 0 0 with running := some 0x02000000 })
    (start 0 0)).errcode = .busy := by decide +kernel
theorem test_busy_status : (after (takeEvent (HostScript.rd .status) { start 0 0 with running := some 0 })
    (start 0 0)).response = .readData 1 := by decide +kernel
theorem test_arg_write : (after (takeEvent (HostScript.wr .arg0 0xFFFFFFFF) (start 0 0)) (start 0 0)).arg0 =
    0xFFFFFFFF := by decide +kernel
theorem test_placed_word : (after (step ((start 0 0).withFetchWord 32 0x7F000000)) (start 0 0)).errcode = .illegal := by
  decide +kernel

end Sys2Proof.Machine.Tests
end

