-- ==== Sys2Proof/Tests/Witnesses.lean ====
section
/-! SUPPORT. For every statement with hypotheses, a concrete state and operands that meet all of them together, with the
boundary values of its clauses. The theorem's name is the statement's. -/

namespace Sys2Proof.Machine.Tests

/-- BIN(0x7) with b = 2, the largest root exponent: the smallest binary field (R111). -/
def gf4 : State :=
  { start 2 2 with
    fieldOk := true
    field := { kind := .bin, fmod := 7, m := 2, alpha := 2, order := 3, b := 2 }
    alog := overwrite (start 2 2).alog [1, 2, 3]
    log := overwrite (start 2 2).log [0, 0, 1, 2] }

/-- PRIME(3, 2) with b = 1: the smallest prime field (R112). -/
def gf3 : State :=
  { start 1 1 with
    fieldOk := true
    field := { kind := .prime, fmod := 3, m := 0, alpha := 2, order := 2, b := 1 }
    alog := overwrite (start 1 1).alog [1, 2]
    log := overwrite (start 1 1).log [0, 0, 1] }

/-- The generator (x − 3)(x − 1) of degree 2 over BIN(0x7), with a remainder. -/
def gf4Gen : State :=
  { gf4 with
    genOk := true
    k := 2
    g := overwrite gf4.g [3, 2, 1]
    r := overwrite gf4.r [2, 3]
    feedcnt := 1 }

theorem start_sizes (a0 a1 : Word) : StoreSizes (start a0 a1) :=
  ⟨zeroStore_length _, zeroStore_length _, zeroStore_length _, zeroStore_length _⟩
theorem gf4_sizes : StoreSizes gf4 :=
  ⟨(overwrite_length _ _).trans (start_sizes 2 2).log, (overwrite_length _ _).trans (start_sizes 2 2).alog,
   (start_sizes 2 2).g, (start_sizes 2 2).r⟩
theorem gf3_sizes : StoreSizes gf3 :=
  ⟨(overwrite_length _ _).trans (start_sizes 1 1).log, (overwrite_length _ _).trans (start_sizes 1 1).alog,
   (start_sizes 1 1).g, (start_sizes 1 1).r⟩
theorem gf4Gen_sizes : StoreSizes gf4Gen :=
  ⟨gf4_sizes.log, gf4_sizes.alog, (overwrite_length _ _).trans gf4_sizes.g, (overwrite_length _ _).trans gf4_sizes.r⟩
theorem start_fieldInv (a0 a1 : Word) : FieldInv (start a0 a1) :=
  ⟨start_sizes a0 a1, fun h => (by cases h), fun h => (by cases h), fun h => (by cases h)⟩

theorem gf4_fieldInv : FieldInv gf4 where
  sizes := gf4_sizes
  valid _ := by
    refine ⟨⟨by decide, by decide, by decide, by decide, by decide, by decide, by decide⟩, by decide, ?_⟩
    intro e h0 h
    have : e < 3 := h
    interval_cases e <;> decide
  alog _ := by decide
  log _ := by
    intro a h1 h
    have : a < 4 := h
    interval_cases a <;> decide

theorem gf3_fieldInv : FieldInv gf3 where
  sizes := gf3_sizes
  valid _ := by
    refine ⟨⟨by decide, by decide, by decide, by decide, by decide, by decide⟩, by decide, ?_⟩
    intro e h0 h
    have : e < 2 := h
    interval_cases e
    decide
  alog _ := by decide
  log _ := by
    intro a h1 h
    have : a < 3 := h
    interval_cases a <;> decide

theorem gf4Gen_fieldInv : FieldInv gf4Gen := 
  ⟨gf4Gen_sizes, gf4_fieldInv.2, gf4_fieldInv.3, gf4_fieldInv.4⟩

theorem gf4Gen_genInv : GenInv gf4Gen where
  sizes := gf4Gen_sizes
  genHasField _ := rfl
  kRange _ := by decide
  gen _ := by decide
  genLength _ := rfl
  monic _ := by decide
  remLength _ := rfl
  remElems _ := by decide

theorem gf4_genInv : GenInv gf4 :=
  ⟨gf4_sizes, fun h => (by cases h), fun h => (by cases h), fun h => (by cases h), fun h => (by cases h),
   fun h => (by cases h), fun h => (by cases h), fun h => (by cases h)⟩

theorem gf4Gen_flagsInv : FlagsInv gf4Gen := 
  ⟨by decide, by decide, fun _ => rfl, fun h => absurd h (by decide), fun h => absurd h (by decide)⟩

/-- A running command, with an event to come. -/
def runningClr : State := { start 0 0 with running := some 0x01000000, errcode := .range, events := [.finish] }

theorem witness_DecodeOfEncodeIsTheCommand : (Instr.bigMul10a .b3 .b2 15).wf = true ∧ (Instr.gfCfgbin 8191).wf = true := by
  decide
theorem witness_EncodeOfDecodeIsTheWord : decode 0x3834000F#32 = .ok (.bigMul10a .b3 .b1 15) := by decide +kernel

theorem witness_StepRunsTheDecodedCommand :
    runningClr.running = some 0x01000000 ∧ runningClr.events = .finish :: [] ∧ decode 0x01000000#32 = .ok .clrerr ∧
    { runningClr with events := [] }.events = [] ∧ decode 0x39000000#32 = .error (.unassignedOpcode 0x39) := by
  decide +kernel
theorem witness_PlacedWordRunsInTheNextStep : (start 0 0).running = none ∧ 0xFFFFFFFF < 2 ^ 32 := by decide

/-- A host that writes CMD, reads STATUS and ERRCODE, writes the read-only RESULT, and goes on after the command has completed. -/
def compliant : State :=
  { start 0 0 with
    events := HostScript.wr .cmd 0x02000000 :: ([HostScript.rd .status, HostScript.wr .result 5,
      HostScript.rd .errcode] ++ .finish :: [HostScript.rd .result]) }
theorem witness_CompliantHostSeesAtomicCommands : compliant.running = none ∧
    compliant.events = .access { we := true, addr := 2, be := 0b1111, wdata := 0x02000000 } ::
      ([HostScript.rd .status, HostScript.wr .result 5, HostScript.rd .errcode] ++ .finish ::
        [HostScript.rd .result]) ∧
    ∀ e ∈ [HostScript.rd .status, HostScript.wr .result 5, HostScript.rd .errcode], e.keepsBusyProtocol = true := by
  decide

theorem witness_AccessesWhileBusy : ∀ (we : Bool) (addr : BitVec 4), let a : BusAccess := ⟨we, addr, 0b1111, 0⟩
    let s := { runningClr with events := [.access a] }
    s.running = some 0x01000000 ∧ a.be = 0b1111 ∧ s.events = .access a :: [] := fun _ _ => ⟨rfl, rfl, rfl⟩
theorem witness_AccessesWhileIdle : ∀ (we : Bool) (addr : BitVec 4), let a : BusAccess := ⟨we, addr, 0b1111, 0⟩
    let s := { start 0 0 with events := [.access a] }
    s.running = none ∧ a.be = 0b1111 ∧ s.events = .access a :: [] := fun _ _ => ⟨rfl, rfl, rfl⟩
theorem witness_IllegalAccessIsRefused :
    { start 0 0 with events := [.access ⟨true, 2, 0b0011, 0x02000000⟩] }.events.head? =
      some (.access ⟨true, 2, 0b0011, 0x02000000⟩) ∧ (0b0011#4 ≠ 0b1111) := by decide
theorem witness_IdleBlockKeepsItsState : (start 0 0).running = none ∧ (start 0 0).events = [] := by decide
theorem witness_ResetsReachTheResetTable : { gf4Gen with running := some 0, events := [.hardReset] }.events =
    .hardReset :: [] := rfl
theorem witness_MirrorsShowTheField : (FieldInv gf4 ∧ gf4.fieldOk = true) ∧ (FieldInv gf3 ∧ gf3.fieldOk = true) ∧
    (FieldInv (start 0 0) ∧ (start 0 0).fieldOk = false) :=
  ⟨⟨gf4_fieldInv, rfl⟩, ⟨gf3_fieldInv, rfl⟩, start_fieldInv 0 0, rfl⟩

theorem witness_LatchKeepsTheFirstCode : ErrorCode.busy ≠ .noError ∧ (start 0 0).errcode = .noError ∧
    runningClr.errcode ≠ .noError := by decide
theorem witness_ErrcodeIsStickyFirst : (∃ t, step runningClr = .next t) ∧ runningClr.errcode ≠ .noError :=
  ⟨⟨_, rfl⟩, by decide⟩
theorem witness_FailedCommandOnlyLatches :
    (∃ t, exec .gfMul (start 0 0) = .next t ∧ t.errcode ≠ .noError) ∧
    (∃ t, exec (.gfCfgbin 3) gf4Gen = .next t ∧ t.errcode ≠ .noError) ∧
    (start 0 0).errcode = .noError ∧ gf4Gen.errcode = .noError :=
  ⟨⟨_, rfl, by decide⟩, ⟨_, rfl, by decide⟩, rfl, rfl⟩
theorem witness_ErrcodeDoesNotInfluenceCommands : ∃ t, exec (.rsFeed 1) gf4Gen = .next t := ⟨_, rfl⟩
theorem witness_FlagsAreNeverRead : ∃ t, exec (.bigAdd .b0 .b0 .b0) (start 0 0) = .next t := ⟨_, rfl⟩
theorem witness_FlagsWrittenOnlyByTheirCommands : (∃ t, exec (.bigCmp .b0 .b1) (start 0 0) = .next t) ∧
    Instr.bigCmp .b0 .b1 ≠ .sreset ∧ writesCarryZero (.bigCmp .b0 .b1) = false ∧
    writesCompare (.bigAdd .b0 .b0 .b0) = false := ⟨⟨_, rfl⟩, by decide⟩
theorem witness_RegistersWrittenOnlyByTheirCommands : (∃ t, exec (.bigClr .b1) gf4Gen = .next t) ∧
    Instr.bigClr .b1 ≠ .sreset ∧ writesResult (.bigClr .b1) = false ∧ bigDest (.bigClr .b1) ≠ some .b0 ∧
    isConfigure (.bigClr .b1) = false ∧ writesEncoder (.bigClr .b1) = false := ⟨⟨_, rfl⟩, by decide⟩
/-- For StepKeepsFlagsInvariant, StepKeepsFieldTables, StepKeepsTheGenerator, StepKeepsTheStoreSizes (its premise is
`FieldInv.sizes`) and StepKeepsKMax: a live generator, and
rs.feed 1 about to complete. -/
theorem witness_StepKeepsTheInvariants : let s := { gf4Gen with running := some 0x21000001 }
    FlagsInv s ∧ FieldInv s ∧ GenInv s ∧ ∃ t, step s = .next t :=
  ⟨⟨gf4Gen_flagsInv.1, gf4Gen_flagsInv.2, gf4Gen_flagsInv.3, gf4Gen_flagsInv.4, gf4Gen_flagsInv.5⟩,
   ⟨⟨gf4Gen_sizes.1, gf4Gen_sizes.2, gf4Gen_sizes.3, gf4Gen_sizes.4⟩, gf4Gen_fieldInv.2, gf4Gen_fieldInv.3,
    gf4Gen_fieldInv.4⟩,
   ⟨⟨gf4Gen_sizes.1, gf4Gen_sizes.2, gf4Gen_sizes.3, gf4Gen_sizes.4⟩, gf4Gen_genInv.2, gf4Gen_genInv.3,
    gf4Gen_genInv.4, gf4Gen_genInv.5, gf4Gen_genInv.6, gf4Gen_genInv.7, gf4Gen_genInv.8⟩, ⟨_, rfl⟩⟩
theorem witness_LiveEntriesFitTheStores : FieldInv gf4Gen ∧ gf4Gen.fieldOk = true ∧ GenInv gf4Gen ∧
    gf4Gen.genOk = true := ⟨gf4Gen_fieldInv, rfl, gf4Gen_genInv, rfl⟩

theorem witness_TableBuildTestsTheOrderOfAlpha : gf4.field.Shape ∧ gf3.field.Shape :=
  ⟨(gf4_fieldInv.valid rfl).1, (gf3_fieldInv.valid rfl).1⟩
theorem witness_PrimeConfigureAcceptsExactlyPrimitiveRoots : (3 : Nat) < 8192 ∧ (8191 : Nat) < 8192 := by decide
theorem witness_TableMethodAgreesWithArithmetic : FieldInv gf4 ∧ gf4.fieldOk = true ∧ 3 < gf4.field.q ∧
    0 < gf4.field.q ∧ FieldInv gf3 ∧ gf3.fieldOk = true ∧ 2 < gf3.field.q :=
  ⟨gf4_fieldInv, rfl, by decide, by decide, gf3_fieldInv, rfl, by decide⟩
theorem witness_FieldLawsHold : FieldInv gf4 ∧ gf4.fieldOk = true ∧ 3 < gf4.field.q := ⟨gf4_fieldInv, rfl, by decide⟩
theorem witness_GeneratorIsTheProductOfItsRoots : gf4.field.Valid := gf4_fieldInv.valid rfl
theorem witness_RemainderIsTheDivisionRemainder :
    (FieldInv gf4Gen ∧ GenInv gf4Gen ∧ StartsBlock .rsClear 2 gf4Gen) ∧
    (FieldInv gf4 ∧ GenInv gf4 ∧ StartsBlock (.rsStart 64) 64 gf4) ∧
    ∀ d ∈ [0, 3], d < gf4.field.q :=
  ⟨⟨gf4Gen_fieldInv, gf4Gen_genInv, .inr ⟨rfl, rfl, rfl⟩⟩,
   ⟨gf4_fieldInv, gf4_genInv, .inl ⟨rfl, rfl, by decide, by decide⟩⟩, by decide⟩
theorem witness_CodewordLiesOnTheLocus : FieldInv gf4 ∧ GenInv gf4 ∧ StartsBlock (.rsStart 1) 1 gf4 ∧
    ∀ d ∈ [3, 0, 1], d < gf4.field.q :=
  ⟨gf4_fieldInv, gf4_genInv, .inl ⟨rfl, rfl, by decide, by decide⟩, by decide⟩
theorem witness_EncoderIsLinear : FieldInv gf4 ∧ GenInv gf4 ∧ StartsBlock (.rsStart 2) 2 gf4 ∧
    (∀ d ∈ [3, 0], d < gf4.field.q) ∧ (∀ d ∈ [1, 2], d < gf4.field.q) ∧ [3, 0].length = [1, 2].length ∧
    3 < gf4.field.q :=
  ⟨gf4_fieldInv, gf4_genInv, .inl ⟨rfl, rfl, by decide, by decide⟩, by decide, by decide, rfl, by decide⟩

/-- One witness a clause: poly 3; b = 3 > 2^2 − 2 with poly 4; 0x1F, where x has order 5; 0x7 with b = 2. -/
theorem witness_CfgbinConfigures : (∀ a0 a1, StoreSizes (start a0 a1)) ∧
    (3 < 8192 ∧ 3 < 4) ∧ (4 ≤ 4 ∧ 2 ^ (4 : Nat).log2 - 2 < (start 0 3).a1) ∧
    (4 ≤ 0x1F ∧ (start 0 0).a1 ≤ 2 ^ (0x1F : Nat).log2 - 2 ∧ ¬(binField 0x1F (start 0 0).a1).AlphaHasOrderN) ∧
    (4 ≤ 7 ∧ (start 0 2).a1 ≤ 2 ^ (7 : Nat).log2 - 2 ∧ (binField 7 (start 0 2).a1).AlphaHasOrderN) := by
  refine ⟨start_sizes, by decide, by decide, ⟨by decide, by decide, ?_⟩, by decide, by decide, ?_⟩
  · exact fun h => h.2 5 (by decide) (by decide) (by decide +kernel)
  · exact (gf4_fieldInv.valid rfl).2
/-- One witness a clause: p = 2 and 4096; g = p; b = p − 1; g = 2 of order 3 modulo 7; p = 3, g = 2, b = 1. -/
theorem witness_CfgprimeConfigures : (∀ a0 a1, StoreSizes (start a0 a1)) ∧
    (2 < 3 ∧ 4095 < 4096 ∧ 4096 < 8192) ∧ (3 ≤ 929 ∧ 929 ≤ 4095 ∧ 929 ≤ (start 929 1).a0) ∧
    ((start 3 928).a0 < 929 ∧ 929 - 2 < (start 3 928).a1) ∧
    ((start 2 0).a0 < 7 ∧ (start 2 0).a1 ≤ 7 - 2 ∧ ¬(primeField 7 (start 2 0).a0 (start 2 0).a1).AlphaHasOrderN) ∧
    ((start 2 1).a0 < 3 ∧ (start 2 1).a1 ≤ 3 - 2 ∧ (primeField 3 (start 2 1).a0 (start 2 1).a1).AlphaHasOrderN) := by
  refine ⟨start_sizes, by decide, by decide, by decide, ⟨by decide, by decide, ?_⟩, by decide, by decide, ?_⟩
  · exact fun h => h.2 3 (by decide) (by decide) (by decide)
  · exact (gf3_fieldInv.valid rfl).2
theorem witness_MulAndAddOnElements : (FieldInv (start 0 0) ∧ (start 0 0).fieldOk = false) ∧
    (FieldInv gf4 ∧ gf4.fieldOk = true ∧ gf4.a0 < gf4.field.q ∧ gf4.a1 < gf4.field.q) ∧
    (FieldInv { gf4 with arg1 := 4 } ∧ gf4.field.q ≤ { gf4 with arg1 := 4 }.a1) :=
  ⟨⟨start_fieldInv 0 0, rfl⟩, ⟨gf4_fieldInv, rfl, by decide, by decide⟩,
   ⟨⟨gf4_sizes.1, gf4_sizes.2, gf4_sizes.3, gf4_sizes.4⟩, gf4_fieldInv.2, gf4_fieldInv.3, gf4_fieldInv.4⟩, by decide⟩
theorem witness_ExpAndLogReadTheTables : (FieldInv gf4 ∧ gf4.fieldOk = true ∧ 0 < gf4.a0 ∧ gf4.a0 < gf4.field.q) ∧
    gf4.field.q ≤ { gf4 with arg0 := 4 }.a0 ∧ { gf4 with arg0 := 0 }.a0 = 0 :=
  ⟨⟨gf4_fieldInv, rfl, by decide, by decide⟩, by decide⟩
theorem witness_StartBuildsTheGenerator : FieldInv gf4 ∧ gf4.fieldOk = true ∧ 64 ≤ gf4.kMax.toNat ∧
    gf4.kMax.toNat < 65 ∧ (start 0 0).fieldOk = false := ⟨gf4_fieldInv, rfl, by decide, by decide, rfl⟩
theorem witness_FeedDividesOneStep : (FieldInv gf4Gen ∧ GenInv gf4Gen ∧ gf4Gen.genOk = true ∧ 3 < gf4Gen.field.q ∧
    gf4Gen.field.q ≤ 4 ∧ 1 < gf4Gen.kVal) ∧ (FieldInv gf4 ∧ GenInv gf4 ∧ gf4.genOk = false) :=
  ⟨⟨gf4Gen_fieldInv, gf4Gen_genInv, rfl, by decide, by decide, by decide⟩, gf4_fieldInv, gf4_genInv, rfl⟩
theorem witness_ReadAndClearTheEncoder : FieldInv gf4Gen ∧ GenInv gf4Gen ∧ gf4Gen.genOk = true ∧ 1 < gf4Gen.kVal ∧
    gf4Gen.kVal ≤ 2 ∧ gf4Gen.kVal < 3 ∧ gf4.genOk = false :=
  ⟨gf4Gen_fieldInv, gf4Gen_genInv, rfl, by decide, by decide, by decide, rfl⟩

theorem witness_BigWrReplacesOneChunk : (3 < 4 ∧ 65536 ≤ (start 0x10000 0).a0) ∧ (start 0xFFFF 0).a0 < 65536 ∧ 2 < 3 := by
  decide
theorem witness_BigRdReadsOneChunk : (3 : Nat) < 4 ∧ (31 : Nat) < 32 := by decide
theorem witness_BigClrAndMul10a : (9 : Nat) ≤ 9 ∧ (9 : Nat) < 10 := by decide
theorem witness_AddUndoesSub : BigReg.b0 ≠ .b1 := by decide
theorem witness_ChunkLoadGivesTheValue :
    { start 0 0 with events := HostScript.bigLd .b2 5 }.running = none ∧
    { start 0 0 with events := HostScript.bigLd .b2 5 }.events = HostScript.bigLd .b2 5 := ⟨rfl, rfl⟩
theorem witness_DecimalLoadGivesTheValue : (∀ d ∈ List.replicate 33 9, d ≤ 9) ∧ (List.replicate 33 9).length ≤ 33 := by
  decide
/-- The boundary 2·B1 = 2^111 on the largest value it leaves room for. -/
theorem witness_ShiftSubtractDivides : (bigs (2 ^ 111 - 1) (2 ^ 110)).bigVal .b0 = 2 ^ 111 - 1 ∧
    (bigs (2 ^ 111 - 1) (2 ^ 110)).bigVal .b1 = 2 ^ 110 ∧ 0 < 2 ^ 110 ∧ 2 * 2 ^ 110 < 2 ^ 112 ∧
    ∀ j, 2 ^ 110 * 2 ^ j ≤ 2 ^ 111 - 1 → 2 ^ 110 * 2 ^ (j + 1) < 2 ^ 112 := by
  refine ⟨by decide +kernel, by decide +kernel, by decide, by decide, fun j h => ?_⟩
  rcases Nat.eq_zero_or_pos j with rfl | hj
  · decide
  · have : 2 ^ 1 ≤ 2 ^ j := Nat.pow_le_pow_right (by decide) hj
    omega

end Sys2Proof.Machine.Tests
end

section
/-! PROOF. The field and encoder state: what leaves it alone, and what one step can do to it. -/

namespace Sys2Proof.Machine

/-- K_MAX and the field and encoder state of R36 to R38, FEEDCNT apart; all else as after a reset. -/
def State.codePart (s : State) : State :=
  { State.resetWith s.kMax with
    fieldOk := s.fieldOk, field := s.field, log := s.log, alog := s.alog,
    genOk := s.genOk, k := s.k, g := s.g, r := s.r }

@[simp] theorem latch_codePart (e : ErrorCode) (s : State) : (latch e s).codePart = s.codePart := rfl
@[simp] theorem setResult_codePart (v : Nat) (s : State) : (setResult v s).codePart = s.codePart := rfl
@[simp] theorem writeBig_codePart (rd : BigReg) (v : Nat) (c : Bool) (s : State) :
    (writeBig rd v c s).codePart = s.codePart := rfl
@[simp] theorem with_response_codePart (s : State) (v : Response) :
    { s with response := v }.codePart = s.codePart := rfl

theorem acceptOrDrop_codePart {write : State → State} {s : State} (hw : (write s).codePart = s.codePart) :
    (acceptOrDrop write s).codePart = s.codePart := by
  unfold acceptOrDrop
  split
  · exact latch_codePart .busy s
  · exact hw

/-- No write of a register touches the field or the encoder (R21, R206). -/
@[simp] theorem writeWindow_codePart (reg : WindowReg) (v : Word) (s : State) :
    (writeWindow reg v s).codePart = s.codePart := by
  cases reg with
  | cmd | arg0 | arg1 => exact acceptOrDrop_codePart rfl
  | _ => rfl

/-- No read touches the field or the encoder (R65). -/
@[simp] theorem readAccess_codePart (reg : WindowReg) (s : State) : (readAccess reg s).codePart = s.codePart := by
  unfold readAccess
  split <;> rfl

/-- A command whose effect leaves the field and the encoder alone does so when it fails, too. -/
theorem command_codePart {checks : List (Option ErrorCode)} {effect : State → State} {s t : State}
    (h : command checks effect s = .next t) (he : (effect s).codePart = s.codePart) : t.codePart = s.codePart := by
  obtain ⟨e, -, rfl⟩ | ⟨-, rfl⟩ := command_cases h
  · exact latch_codePart e s
  · exact he

theorem next_codePart {s t u : State} (h : Host.Outcome.next u = (.next t : Host.Outcome State Fault Refusal))
    (hu : u.codePart = s.codePart) : t.codePart = s.codePart := by
  cases h
  exact hu

/-- The commands that write the field or the encoder state (R36, R38, R102). -/
def writesCode : Instr → Bool
  | .sreset => true
  | i => isConfigure i || writesEncoder i

/-- No other command changes any of it. -/
theorem exec_codePart {i : Instr} {s t : State} (h : exec i s = .next t) (hi : writesCode i = false) :
    t.codePart = s.codePart := by
  cases i with
  | sreset | gfCfgbin _ | gfCfgprime _ | rsStart _ | rsFeed _ | rsClear => cases hi
  | nop | clrerr | bigCmp _ _ => exact next_codePart h rfl
  | bigRd _ _ => exact next_codePart h (setResult_codePart _ s)
  | bigClr _ | bigAdd _ _ _ | bigSub _ _ _ | bigShl _ _ _ | bigShr _ _ _ =>
    exact next_codePart h (writeBig_codePart _ _ _ s)
  | bigMul10a _ _ _ => exact command_codePart h (writeBig_codePart _ _ _ s)
  | gfMul | gfAdd | gfExp | gfLog | rsRdpar _ | rsRdgen _ => exact command_codePart h (setResult_codePart _ s)
  | bigWr rd chunk =>
    have hwr : execBigWr rd chunk s = .next t := h
    exact command_codePart hwr rfl

theorem finishCommand_idle {s : State} (h : s.running = none) : finishCommand s = .next s := by
  simp only [finishCommand, h]

/-- What a completion can do to the field and the encoder: nothing, or what a command does from a state that agrees
in them (R204, R205). -/
theorem finishCommand_codePart_cases {s t : State} (h : finishCommand s = .next t) :
    t.codePart = s.codePart ∨ ∃ i u, u.codePart = s.codePart ∧ exec i u = .next t := by
  cases hw : s.running with
  | none =>
    rw [finishCommand_idle hw] at h
    exact .inl (next_codePart h rfl)
  | some w =>
    rw [finishCommand_running hw] at h
    cases hd : decode w with
    | ok i =>
      rw [execWord_ok _ hd] at h
      exact .inr ⟨i, { s with running := none }, rfl, h⟩
    | error e =>
      rw [execWord_error _ hd] at h
      exact .inl (next_codePart h rfl)

/-- What one event can do to the field and the encoder: nothing, a reset, or what a command does from a state that
agrees in them. -/
theorem takeEvent_codePart_cases {e : Event} {s t : State} (h : takeEvent e s = .next t) :
    t.codePart = s.codePart ∨ (∃ u, u.codePart = s.codePart ∧ t = resetBlock u) ∨
      ∃ i u, u.codePart = s.codePart ∧ exec i u = .next t := by
  obtain ⟨a, -, -, ⟨-, rfl⟩ | ⟨-, rfl⟩⟩ | ⟨-, hfin⟩ | ⟨-, rfl⟩ := takeEvent_cases h
  · exact .inl ((with_response_codePart _ _).trans (writeWindow_codePart (.ofAddr a.addr) a.wdata s))
  · exact .inl (readAccess_codePart (.ofAddr a.addr) s)
  · exact (finishCommand_codePart_cases hfin).imp_right .inr
  · exact .inr (.inl ⟨s, rfl, rfl⟩)

/-- One step is a completion or an event, so it can do no more. -/
theorem step_codePart_cases {s t : State} (h : step s = .next t) :
    t.codePart = s.codePart ∨ (∃ u, u.codePart = s.codePart ∧ t = resetBlock u) ∨
      ∃ i u, u.codePart = s.codePart ∧ exec i u = .next t := by
  unfold step nextEvent at h
  split at h
  · exact (finishCommand_codePart_cases h).imp_right .inr
  · next e rest _ => exact takeEvent_codePart_cases (s := { s with events := rest }) h

/-! The invariants read nothing else -/

theorem storeSizes_codePart {s : State} : StoreSizes s.codePart ↔ StoreSizes s :=
  ⟨fun h => ⟨h.log, h.alog, h.g, h.r⟩, fun h => ⟨h.log, h.alog, h.g, h.r⟩⟩

theorem fieldInv_codePart {s : State} : FieldInv s.codePart ↔ FieldInv s :=
  ⟨fun h => ⟨storeSizes_codePart.1 h.sizes, h.valid, h.alog, h.log⟩,
   fun h => ⟨storeSizes_codePart.2 h.sizes, h.valid, h.alog, h.log⟩⟩

theorem genInv_codePart {s : State} : GenInv s.codePart ↔ GenInv s :=
  ⟨fun h => ⟨storeSizes_codePart.1 h.sizes, h.genHasField, h.kRange, h.gen, h.genLength, h.monic, h.remLength,
    h.remElems⟩,
   fun h => ⟨storeSizes_codePart.2 h.sizes, h.genHasField, h.kRange, h.gen, h.genLength, h.monic, h.remLength,
    h.remElems⟩⟩

theorem FieldInv.congr {s t : State} (hf : FieldInv s) (h : t.codePart = s.codePart) : FieldInv t :=
  fieldInv_codePart.1 (h ▸ fieldInv_codePart.2 hf)

theorem GenInv.congr {s t : State} (hg : GenInv s) (h : t.codePart = s.codePart) : GenInv t :=
  genInv_codePart.1 (h ▸ genInv_codePart.2 hg)

/-! The stores keep their sizes -/

theorem StoreSizes.resetBlock (s : State) : StoreSizes (resetBlock s) :=
  ⟨zeroStore_length _, zeroStore_length _, zeroStore_length _, zeroStore_length _⟩

theorem StoreSizes.latch_invalidateField {s : State} (hs : StoreSizes s) (e : ErrorCode) :
    StoreSizes (latch e (invalidateField s)) :=
  ⟨hs.log, hs.alog, hs.g, hs.r⟩

theorem StoreSizes.installField {s : State} (hs : StoreSizes s) (F : FieldCfg) (T : Tables) :
    StoreSizes (installField F T s) :=
  ⟨(overwrite_length _ _).trans hs.log, (overwrite_length _ _).trans hs.alog, hs.g, hs.r⟩

theorem StoreSizes.installGen {s : State} (hs : StoreSizes s) (k : Nat) (g : List Nat) :
    StoreSizes (installGen k g s) :=
  ⟨hs.log, hs.alog, (overwrite_length _ _).trans hs.g, (overwrite_length _ _).trans hs.r⟩

/-- With no live generator the sizes of the stores are all that is claimed (R38). -/
theorem GenInv.of_genOk_false {s : State} (hs : StoreSizes s) (h : s.genOk = false) : GenInv s := by
  have dead : ∀ {p : Prop}, s.genOk = true → p := fun hlive => absurd (h.symm.trans hlive) Bool.false_ne_true
  exact ⟨hs, dead, dead, dead, dead, dead, dead, dead⟩

end Sys2Proof.Machine
end

section
/-! PROOF. The generator polynomial (R130, R132): the in-place loop multiplies by one root factor a pass, and its
result is monic over the field. -/

namespace Sys2Proof.Machine.FieldCfg

variable {F : FieldCfg}

theorem Shape.one_lt_q (h : F.Shape) : 1 < F.q := Nat.lt_trans Nat.one_lt_two h.two_lt_q

theorem Shape.forall_mem_replicate_zero_lt (h : F.Shape) (k : Nat) : ∀ x ∈ List.replicate k 0, x < F.q := by
  intro x hx
  rw [List.eq_of_mem_replicate hx]
  exact Nat.zero_lt_of_lt h.one_lt_q

/-- A product with a negated factor is the negated product. -/
theorem Shape.mul_neg_right (h : F.Shape) (a : Nat) {r : Nat} (hr : r < F.q) :
    F.mul a (F.neg r) = F.neg (F.mul a r) := by
  obtain ⟨-, h⟩ := h
  unfold mul neg
  unfold q at hr
  cases hk : F.kind <;> simp only [hk] at h hr ⊢
  have hprod : a * r % F.fmod.toNat ≤ F.fmod.toNat := (Nat.mod_lt _ (by omega)).le
  rw [Nat.mul_mod_mod, ← ZMod.natCast_eq_natCast_iff', Nat.cast_mul, Nat.cast_sub hr.le, Nat.cast_sub hprod]
  simp only [CharP.cast_eq_zero, zero_sub, mul_neg, ZMod.natCast_mod, Nat.cast_mul]

/-- The constant coefficient of a product with x − r. -/
theorem Shape.add_mul_neg_zero (h : F.Shape) {a r : Nat} (ha : a < F.q) (hr : r < F.q) :
    F.add (F.mul a (F.neg r)) 0 = F.neg (F.mul a r) := by
  rw [h.mul_neg_right a hr, h.add_zero (h.neg_lt (h.mul_lt r ha))]

/-- `g` is monic of degree k with coefficients in the field (R38, R130). -/
def MonicOver (F : FieldCfg) (k : Nat) (g : List Nat) : Prop :=
  g.length = k + 1 ∧ g.getLast? = some 1 ∧ ∀ x ∈ g, x < F.q

theorem MonicOver.getD_degree {k : Nat} {g : List Nat} (hg : F.MonicOver k g) : g.getD k 0 = 1 := by
  obtain ⟨hlen, hlead, -⟩ := hg
  rw [List.getLast?_eq_getElem?, hlen, Nat.add_sub_cancel] at hlead
  rw [List.getD_eq_getElem?_getD, hlead, Option.getD_some]

theorem mulRoot_cons (F : FieldCfg) (r a : Nat) (g : List Nat) :
    F.mulRoot r (a :: g) =
      F.neg (F.mul a r) :: (List.zipWith (fun lower gj => F.sub lower (F.mul gj r)) (a :: g) g ++ [1]) := rfl

theorem polyAdd_singleton_cons (F : FieldCfg) (a b : Nat) (p : List Nat) :
    F.polyAdd [a] (b :: p) = F.add a b :: p := by
  cases p <;> rfl

theorem polyMul_cons_linear (F : FieldCfg) (a c : Nat) (g : List Nat) :
    F.polyMul (a :: g) [c, 1] = F.add (F.mul a c) 0 :: F.polyAdd [F.mul a 1] (F.polyMul g [c, 1]) := rfl

/-- Every entry of a `zipWith` is within a bound that `f` keeps. -/
theorem forall_mem_zipWith_lt {f : Nat → Nat → Nat} {q : Nat} {l m : List Nat}
    (hf : ∀ x ∈ l, ∀ y ∈ m, f x y < q) : ∀ z ∈ List.zipWith f l m, z < q := by
  intro z hz
  rw [← List.map_uncurry_zip_eq_zipWith] at hz
  obtain ⟨⟨x, y⟩, hxy, rfl⟩ := List.mem_map.1 hz
  exact hf x (List.of_mem_zip hxy).1 y (List.of_mem_zip hxy).2

/-- One pass of the loop raises the degree by one (R132). -/
theorem Shape.mulRoot_monic (h : F.Shape) {k r : Nat} {g : List Nat} (hg : F.MonicOver k g) :
    F.MonicOver (k + 1) (F.mulRoot r g) := by
  obtain ⟨hlen, hlead, helems⟩ := hg
  cases g with
  | nil => cases hlead
  | cons a g =>
    have hmid := forall_mem_zipWith_lt (f := fun lower gj => F.sub lower (F.mul gj r)) (l := a :: g) (m := g)
      fun x hx y hy => h.sub_lt (helems x hx) (h.mul_lt r (helems y (List.mem_cons_of_mem a hy)))
    have hlow : F.neg (F.mul a r) < F.q := h.neg_lt (h.mul_lt r (helems a List.mem_cons_self))
    refine ⟨?_, ?_, ?_⟩
    · rw [mulRoot_cons, List.length_cons, List.length_append, List.length_zipWith, List.length_cons,
        Nat.min_eq_right (Nat.le_succ _), List.length_singleton, ← hlen, List.length_cons]
    · rw [mulRoot_cons, ← List.cons_append, List.getLast?_concat]
    · exact List.forall_mem_cons.2
        ⟨hlow, List.forall_mem_append.2 ⟨hmid, List.forall_mem_singleton.2 h.one_lt_q⟩⟩

/-- The product with a root factor x − r, shifted up by one place under a lower coefficient a: each entry is the lower
neighbour minus r times the old entry, and the leading coefficient stays. -/
theorem Shape.polyAdd_polyMul_rootFactor (h : F.Shape) {a r : Nat} {g : List Nat} (hr : r < F.q)
    (hg : ∀ x ∈ g, x < F.q) :
    F.polyAdd [a] (F.polyMul g [F.neg r, 1]) =
      List.zipWith (fun lower gj => F.sub lower (F.mul gj r)) (a :: g) g ++ [g.getLastD a] := by
  induction g generalizing a with
  | nil => rfl
  | cons b g ih =>
    obtain ⟨hb, hg⟩ := List.forall_mem_cons.1 hg
    rw [polyMul_cons_linear, polyAdd_singleton_cons, h.add_mul_neg_zero hb hr, h.mul_one hb, ih hg,
      List.zipWith_cons_cons, List.cons_append, List.getLastD_cons]
    rfl

/-- The loop's pass is the product with the root factor (R132). -/
theorem Shape.mulRoot_eq_polyMul (h : F.Shape) {k r : Nat} {g : List Nat} (hr : r < F.q) (hg : F.MonicOver k g) :
    F.mulRoot r g = F.polyMul g [F.neg r, 1] := by
  obtain ⟨-, hlead, helems⟩ := hg
  cases g with
  | nil => cases hlead
  | cons a g =>
    obtain ⟨ha, hg⟩ := List.forall_mem_cons.1 helems
    have hlast : g.getLastD a = 1 := by
      rw [List.getLast?_cons, Option.some_inj] at hlead
      rw [List.getLastD_eq_getLast?, hlead]
    rw [mulRoot_cons, polyMul_cons_linear, h.add_mul_neg_zero ha hr, h.mul_one ha,
      h.polyAdd_polyMul_rootFactor hr hg, hlast]

theorem buildGen_succ (F : FieldCfg) (k : Nat) :
    F.buildGen (k + 1) = F.mulRoot (F.exp (F.b.toNat + k)) (F.buildGen k) := by
  simp only [buildGen, List.range_succ, List.foldl_append, List.foldl_cons, List.foldl_nil]

theorem Shape.buildGen_monic (h : F.Shape) (k : Nat) : F.MonicOver k (F.buildGen k) := by
  induction k with
  | zero => exact ⟨rfl, rfl, List.forall_mem_singleton.2 h.one_lt_q⟩
  | succ k ih => rw [buildGen_succ]; exact h.mulRoot_monic ih

/-- The loop computes the product of the root factors (R130, R132). -/
theorem Shape.buildGen_eq_rootProduct (h : F.Shape) (k : Nat) : F.buildGen k = F.rootProduct k := by
  induction k with
  | zero => rfl
  | succ k ih => rw [buildGen_succ, h.mulRoot_eq_polyMul (h.exp_lt _) (h.buildGen_monic k), ih, rootProduct]

/-! One step of the division (R133) -/

theorem feedStep_length (F : FieldCfg) {k : Nat} {g r : List Nat} (d : Nat) (hk : 1 ≤ k) (hg : g.length = k + 1)
    (hr : r.length = k) : (F.feedStep g r d).length = k := by
  rw [feedStep, List.length_cons, List.length_zipWith, List.length_dropLast, List.length_tail, hg, hr,
    Nat.add_sub_cancel, Nat.min_eq_left (Nat.sub_le k 1), Nat.sub_add_cancel hk]

theorem Shape.feedStep_lt (h : F.Shape) {g r : List Nat} {d : Nat} (hr : ∀ x ∈ r, x < F.q) (hd : d < F.q) :
    ∀ x ∈ F.feedStep g r d, x < F.q := by
  have htop : r.getLastD 0 < F.q := by
    rw [List.getLastD_eq_getLast?]
    cases hlast : r.getLast? with
    | none => exact Nat.zero_lt_of_lt hd
    | some x => exact hr x (List.mem_of_getLast? hlast)
  have hfb : F.add d (r.getLastD 0) < F.q := h.add_lt hd htop
  exact List.forall_mem_cons.2
    ⟨h.neg_lt (h.mul_lt _ hfb),
     forall_mem_zipWith_lt fun x hx _ _ => h.sub_lt (hr x (List.mem_of_mem_dropLast hx)) (h.mul_lt _ hfb)⟩

end Sys2Proof.Machine.FieldCfg
end

section
/-! PROOF. Each command that writes the encoder leaves it as R38 and R39 say; then so does every step. -/

namespace Sys2Proof.Machine

/-! The checks -/

@[simp] theorem failIf_eq_none {bad : Bool} {e : ErrorCode} : failIf bad e = none ↔ bad = false := by
  cases bad <;> simp

@[simp] theorem requireField_eq_none {s : State} : requireField s = none ↔ s.fieldOk = true := by simp [requireField]

@[simp] theorem requireElem_eq_none {s : State} {x : Nat} : requireElem s x = none ↔ x < s.field.q := by
  simp [requireElem]

@[simp] theorem requireGen_eq_none {s : State} : requireGen s = none ↔ s.genOk = true := by simp [requireGen]

/-- No check fails exactly when the first passes and none of the rest fails (R184). -/
@[simp] theorem firstError_cons_eq_none {c : Option ErrorCode} {l : List (Option ErrorCode)} :
    firstError (c :: l) = none ↔ c = none ∧ firstError l = none := by
  cases c <;> simp

/-! The live remainder after a write of R[0..k−1] -/

theorem ofStore_overwrite_take {store : List Elem} {new : List Nat} (hfit : new.length ≤ store.length)
    (hnew : ∀ x ∈ new, x < 4096) : (ofStore (overwrite store (toStore new))).take new.length = new := by
  have h := overwrite_take (store := store) (new := toStore new) ((toStore_length new).le.trans hfit)
  rw [toStore_length] at h
  rw [ofStore, ← List.map_take, h]
  exact ofStore_toStore hnew

/-- A new remainder of k elements over a live generator that is kept (R38, R39). -/
theorem GenInv.of_new_remainder {s t : State} {rem : List Nat} (hg : GenInv s) (hlive : s.genOk = true)
    (ht : t.codePart = { s with r := overwrite s.r (toStore rem) }.codePart) (hlen : rem.length = s.kVal)
    (helems : ∀ x ∈ rem, x < s.field.q) (hq : s.field.q ≤ 4096) : GenInv t := by
  have hrem : ((ofStore (overwrite s.r (toStore rem))).take s.kVal) = rem := by
    have hfit : s.kVal ≤ s.r.length := (hg.kRange hlive).2.trans hg.sizes.r.ge
    rw [← hlen]
    exact ofStore_overwrite_take (hlen ▸ hfit) fun x hx => (helems x hx).trans_le hq
  obtain ⟨hsizes, hfield, hrange, hcoeffs, hlength, hmonic, -, -⟩ := hg
  have hnew : GenInv { s with r := overwrite s.r (toStore rem) } :=
    { sizes := ⟨hsizes.log, hsizes.alog, hsizes.g, (overwrite_length _ _).trans hsizes.r⟩
      genHasField := hfield
      kRange := hrange
      gen := hcoeffs
      genLength := hlength
      monic := hmonic
      remLength := fun _ => (congrArg List.length hrem).trans hlen
      remElems := fun _ x hx => helems x (hrem ▸ hx) }
  exact hnew.congr ht

theorem toStore_replicate_zero (k : Nat) : toStore (List.replicate k 0) = zeroStore k := by simp [toStore, zeroStore]

/-! The three commands -/

theorem State.genCoeffs_getD_degree (s : State) : s.genCoeffs.getD s.kVal 0 = entry s.g s.kVal := by
  rw [entry_eq_ofStore_getD, List.getD_eq_getElem?_getD, List.getD_eq_getElem?_getD, State.genCoeffs,
    List.getElem?_take_of_lt (Nat.lt_succ_self _)]

/-- The generator of degree k that the loop builds, with a zero remainder (R131, R132). -/
theorem GenInv.of_buildGen {s : State} (hsizes : StoreSizes s) (hfield : s.fieldOk = true) (hshape : s.field.Shape)
    (hk : 1 ≤ s.kVal ∧ s.kVal ≤ s.kMax.toNat) (hgen : s.genCoeffs = s.field.buildGen s.kVal)
    (hrem : s.remCoeffs = List.replicate s.kVal 0) : GenInv s := by
  have hmonic := hshape.buildGen_monic s.kVal
  exact
    { sizes := hsizes
      genHasField := fun _ => hfield
      kRange := fun _ => hk
      gen := fun _ => hgen.trans (hshape.buildGen_eq_rootProduct _)
      genLength := fun _ => hgen ▸ hmonic.1
      monic := fun _ => s.genCoeffs_getD_degree.symm.trans (hgen ▸ hmonic.getD_degree)
      remLength := fun _ => hrem ▸ List.length_replicate
      remElems := fun _ => hrem ▸ hshape.forall_mem_replicate_zero_lt _ }

theorem installGen_kVal {k : Nat} (hk : k < 8192) (g : List Nat) (s : State) : (installGen k g s).kVal = k :=
  (BitVec.toNat_ofNat k 13).trans (Nat.mod_eq_of_lt hk)

theorem installGen_genInv {s : State} {k : Nat} (hsizes : StoreSizes s) (hfield : s.fieldOk = true)
    (hshape : s.field.Shape) (hpos : 1 ≤ k) (hmax : k ≤ s.kMax.toNat) :
    GenInv (installGen k (s.field.buildGen k) s) := by
  have hk : k < 8192 := hmax.trans_lt s.kMax.isLt
  obtain ⟨hlen, -, helems⟩ := hshape.buildGen_monic k
  have hkVal := installGen_kVal hk (s.field.buildGen k) s
  have hgen : (installGen k (s.field.buildGen k) s).genCoeffs = s.field.buildGen k :=
    installGen_genCoeffs hk hlen (hsizes.g ▸ Nat.succ_le_succ hmax) fun x hx => (helems x hx).trans_le hshape.q_le
  have hrem : (installGen k (s.field.buildGen k) s).remCoeffs = List.replicate k 0 :=
    installGen_remCoeffs hk (hsizes.r ▸ hmax)
  refine .of_buildGen (hsizes.installGen k _) hfield hshape ?_ ?_ ?_
  · rw [hkVal]
    exact ⟨hpos, hmax⟩
  · rw [hgen, hkVal, installGen_field]
  · rw [hrem, hkVal]

theorem execRsStart_keeps_genInv {s t : State} {k : Nat} (hf : FieldInv s) (hg : GenInv s)
    (h : execRsStart k s = .next t) : GenInv t := by
  obtain ⟨e, -, rfl⟩ | ⟨hchecks, rfl⟩ := command_cases h
  · exact hg.congr (latch_codePart e s)
  · simp only [firstError_cons_eq_none, requireField_eq_none, failIf_eq_none, Bool.or_eq_false_iff,
      decide_eq_false_iff_not, not_lt, firstError_nil, and_true] at hchecks
    obtain ⟨hfield, hpos, hmax⟩ := hchecks
    exact installGen_genInv hg.sizes hfield (hf.valid hfield).1 hpos hmax

theorem execRsFeed_keeps_genInv {s t : State} {d : Nat} (hf : FieldInv s) (hg : GenInv s)
    (h : execRsFeed d s = .next t) : GenInv t := by
  obtain ⟨e, -, rfl⟩ | ⟨hchecks, rfl⟩ := command_cases h
  · exact hg.congr (latch_codePart e s)
  · simp only [firstError_cons_eq_none, requireGen_eq_none, requireElem_eq_none, firstError_nil, and_true] at hchecks
    obtain ⟨hlive, hd⟩ := hchecks
    have hshape := (hf.valid (hg.genHasField hlive)).1
    exact hg.of_new_remainder hlive rfl
      (FieldCfg.feedStep_length _ d (hg.kRange hlive).1 (hg.genLength hlive) (hg.remLength hlive))
      (hshape.feedStep_lt (hg.remElems hlive) hd) hshape.q_le

theorem execRsClear_keeps_genInv {s t : State} (hf : FieldInv s) (hg : GenInv s) (h : execRsClear s = .next t) :
    GenInv t := by
  obtain ⟨e, -, rfl⟩ | ⟨hchecks, rfl⟩ := command_cases h
  · exact hg.congr (latch_codePart e s)
  · simp only [firstError_cons_eq_none, requireGen_eq_none, firstError_nil, and_true] at hchecks
    have hshape := (hf.valid (hg.genHasField hchecks)).1
    exact hg.of_new_remainder hchecks (by rw [toStore_replicate_zero]; rfl) List.length_replicate
      (hshape.forall_mem_replicate_zero_lt _) hshape.q_le

/-- A configure command leaves no generator, whether it succeeds or fails (R111, R112, R183). -/
theorem configure_keeps_genInv {checks : List (Option ErrorCode)} {F : FieldCfg} {T : Tables} {s t : State}
    (hs : StoreSizes s) (h : configure checks (installField F T) s = .next t) : GenInv t := by
  obtain ⟨e, -, rfl⟩ | ⟨-, rfl⟩ := configure_cases h
  · exact .of_genOk_false (hs.latch_invalidateField e) rfl
  · exact .of_genOk_false (hs.installField F T) rfl

theorem resetBlock_genInv (s : State) : GenInv (resetBlock s) := .of_genOk_false (.resetBlock s) rfl

theorem exec_keeps_genInv {i : Instr} {s t : State} (hf : FieldInv s) (hg : GenInv s) (h : exec i s = .next t) :
    GenInv t := by
  cases i with
  | sreset => cases h; exact resetBlock_genInv s
  | gfCfgbin _ | gfCfgprime _ => exact configure_keeps_genInv hg.sizes h
  | rsStart _ => exact execRsStart_keeps_genInv hf hg h
  | rsFeed _ => exact execRsFeed_keeps_genInv hf hg h
  | rsClear => exact execRsClear_keeps_genInv hf hg h
  | _ => exact hg.congr (exec_codePart h rfl)

/-- Settles O29: a step leaves the field and the encoder alone, resets the block, or runs one command, and each keeps
the generator and the remainder over the configured field. -/
theorem stepKeepsTheGenerator : Obligations.StepKeepsTheGenerator := by
  intro s t hf hg h
  obtain hsame | ⟨u, -, rfl⟩ | ⟨i, u, hsame, hexec⟩ := step_codePart_cases h
  · exact hg.congr hsame
  · exact resetBlock_genInv u
  · exact exec_keeps_genInv (hf.congr hsame) (hg.congr hsame) hexec

end Sys2Proof.Machine
end

section
/-! PROOF. The field laws (R121). Addition and distribution need no valid field; the laws of the product go through the
powers of α, of which every nonzero element is one. -/

namespace Sys2Proof.Machine.FieldCfg

variable {F : FieldCfg}

theorem add_assoc (F : FieldCfg) (a b c : Nat) : F.add (F.add a b) c = F.add a (F.add b c) := by
  unfold add
  cases F.kind
  · exact Nat.xor_assoc a b c
  · simp only [Nat.mod_add_mod, Nat.add_mod_mod, Nat.add_assoc]

theorem mul_add (F : FieldCfg) (a b c : Nat) : F.mul a (F.add b c) = F.add (F.mul a b) (F.mul a c) := by
  unfold mul add
  cases F.kind
  · simp only [clmulmod_eq, xorSum_xor_right]
  · simp only [Nat.mul_mod_mod, Nat.mod_add_mod, Nat.add_mod_mod, Nat.mul_add]

theorem zero_mul (F : FieldCfg) (a : Nat) : F.mul 0 a = 0 := by
  unfold mul
  cases F.kind
  · rw [clmulmod_eq, xorSum_zero_left (xtime_zero _ _)]
  · simp only [Nat.zero_mul, Nat.zero_mod]

/-- Exponents add (R121). -/
theorem Shape.exp_add (h : F.Shape) (i j : Nat) : F.exp (i + j) = F.mul (F.exp i) (F.exp j) := by
  rw [h.mul_exp (h.exp_lt i), h.exp_eq_iterate i, ← Function.iterate_add_apply, Nat.add_comm, h.exp_eq_iterate]

/-- Multiplying the second factor by a power of α multiplies the product by it. -/
theorem Shape.mul_iterate (h : F.Shape) {a b : Nat} (ha : a < F.q) (hb : b < F.q) (e : Nat) :
    F.mul a (F.step^[e] b) = F.step^[e] (F.mul a b) := by
  induction e with
  | zero => rfl
  | succ e ih =>
    rw [Function.iterate_succ_apply', h.mul_step ha (h.iterate_lt hb e), ih, Function.iterate_succ_apply']

/-- The case split of the product's laws (R113). -/
theorem Valid.eq_zero_or_exp (h : F.Valid) {a : Nat} (ha : a < F.q) : a = 0 ∨ ∃ e, F.exp e = a :=
  (Nat.eq_zero_or_pos a).imp_right fun hpos => (h.exists_exp hpos ha).imp fun _ => And.right

theorem Valid.mul_comm (h : F.Valid) {a b : Nat} (ha : a < F.q) (hb : b < F.q) : F.mul a b = F.mul b a := by
  obtain rfl | ⟨i, rfl⟩ := h.eq_zero_or_exp ha
  · rw [zero_mul, h.1.mul_zero]
  obtain rfl | ⟨j, rfl⟩ := h.eq_zero_or_exp hb
  · rw [zero_mul, h.1.mul_zero]
  rw [← h.1.exp_add, Nat.add_comm, h.1.exp_add]

/-- Both sides are e table steps from a·b, where α^e is the third factor. -/
theorem Valid.mul_assoc (h : F.Valid) {a b c : Nat} (ha : a < F.q) (hb : b < F.q) (hc : c < F.q) :
    F.mul (F.mul a b) c = F.mul a (F.mul b c) := by
  obtain rfl | ⟨e, rfl⟩ := h.eq_zero_or_exp hc
  · simp only [h.1.mul_zero]
  · rw [h.1.mul_exp (h.1.mul_lt b ha), h.1.mul_exp hb, h.1.mul_iterate ha hb]

/-- The one inverse of α^e is α^(N − e) (R121). -/
theorem Valid.exp_mul_eq_one_iff (h : F.Valid) {e x : Nat} (he : e ≤ F.N) (hx : x < F.q) :
    F.mul (F.exp e) x = 1 ↔ x = F.exp (F.N - e) := by
  have hexp := h.1.exp_lt
  have hinv : F.mul (F.exp e) (F.exp (F.N - e)) = 1 := by rw [← h.1.exp_add, Nat.add_sub_cancel' he, h.2.1]
  constructor
  · intro hone
    calc x = F.mul x (F.mul (F.exp e) (F.exp (F.N - e))) := by rw [hinv, h.1.mul_one hx]
      _ = F.mul (F.mul (F.exp e) x) (F.exp (F.N - e)) := by
        rw [← h.mul_assoc hx (hexp _) (hexp _), h.mul_comm hx (hexp _)]
      _ = F.exp (F.N - e) := by
        rw [hone, h.mul_comm h.1.one_lt_q (hexp _), h.1.mul_one (hexp _)]
  · rintro rfl
    exact hinv

end Sys2Proof.Machine.FieldCfg
end

section
/-! PROOF. The tables of a configured field against its arithmetic (R116, R121). -/

namespace Sys2Proof.Machine

/-- ALOG holds every power of α, its exponent reduced modulo N (R116). -/
theorem FieldInv.entry_alog_mod {s : State} (hf : FieldInv s) (hok : s.fieldOk = true) (e : Nat) :
    entry s.alog (e % s.field.N) = s.field.exp e :=
  have hv := hf.valid hok
  (hf.alog hok _ (Nat.mod_lt e (Nat.zero_lt_of_lt hv.1.N_pos))).trans (hv.exp_mod e)

/-- Settles O35: LOG turns a product of nonzero elements into a sum of exponents, and the powers of α below N are
distinct. -/
theorem tableMethodAgreesWithArithmetic : Obligations.TableMethodAgreesWithArithmetic := by
  intro s a c hf hok ha hc
  have hv := hf.valid hok
  refine ⟨?_, fun e => (hf.entry_alog_mod hok e).symm, fun ha0 e he => ?_⟩
  · by_cases ha0 : a = 0
    · rw [if_pos (.inl ha0), ha0, FieldCfg.zero_mul]
    by_cases hc0 : c = 0
    · rw [if_pos (.inr hc0), hc0, hv.1.mul_zero]
    obtain ⟨-, hloga⟩ := hf.log hok a (Nat.one_le_iff_ne_zero.2 ha0) ha
    obtain ⟨-, hlogc⟩ := hf.log hok c (Nat.one_le_iff_ne_zero.2 hc0) hc
    rw [if_neg (not_or_intro ha0 hc0), hf.entry_alog_mod hok, hv.1.exp_add, hloga, hlogc]
  · obtain ⟨hlt, hlog⟩ := hf.log hok a (Nat.one_le_iff_ne_zero.2 ha0) ha
    refine ⟨fun hexp => ?_, fun heq => heq ▸ hlog⟩
    rcases Nat.lt_trichotomy e (entry s.log a) with hless | heq | hless
    · exact absurd (hexp.trans hlog.symm) (hv.exp_ne hless hlt)
    · exact heq
    · exact absurd (hlog.trans hexp.symm) (hv.exp_ne hless he)

/-- Settles O36: the laws of the sum hold digit by digit or modulo p, and those of the product follow from the powers of
α; the inverse of a is the power of the negated logarithm. -/
theorem fieldLawsHold : Obligations.FieldLawsHold := by
  intro s a c d hf hok ha hc hd
  have hv := hf.valid hok
  refine ⟨s.field.add_comm a c, s.field.add_assoc a c d, hv.mul_comm ha hc, hv.mul_assoc ha hc hd,
    s.field.mul_add a c d, hv.1.add_zero ha, hv.1.mul_one ha, fun ha0 x hx => ?_, hv.1.exp_add⟩
  obtain ⟨hlt, hlog⟩ := hf.log hok a (Nat.one_le_iff_ne_zero.2 ha0) ha
  rw [hf.entry_alog_mod hok, ← hv.exp_mul_eq_one_iff hlt.le hx, hlog]

end Sys2Proof.Machine
end

section
/-! PROOF. The big registers as integers after a command of the unit, and commands in a row (R150, R153, R156, R159,
R205). -/

namespace Sys2Proof.Machine

theorem writeBig_bigVal_same (rd : BigReg) (v : Nat) (c : Bool) (s : State) :
    (writeBig rd v c s).bigVal rd = v % 2 ^ 112 := by
  rw [State.bigVal, writeBig_big, BigFile.get_set_same, BitVec.toNat_ofNat]

theorem writeBig_bigVal_other {rd r : BigReg} (v : Nat) (c : Bool) (s : State) (h : r ≠ rd) :
    (writeBig rd v c s).bigVal r = s.bigVal r := by
  rw [State.bigVal, writeBig_big, BigFile.get_set_other _ _ h, State.bigVal]

/-- A compare writes no register (R156). -/
@[simp] theorem writeCompare_bigVal (a b : Nat) (s : State) (r : BigReg) :
    (writeCompare a b s).bigVal r = s.bigVal r := rfl

theorem State.bigVal_lt (s : State) (r : BigReg) : s.bigVal r < 2 ^ 112 := (s.big.get r).isLt

@[simp] theorem exec_bigClr (rd : BigReg) (s : State) : exec (.bigClr rd) s = .next (writeBig rd 0 false s) := rfl

/-- A decimal digit passes the one check (R159). -/
theorem exec_bigMul10a {digit : Nat} (rd ra : BigReg) (s : State) (h : digit ≤ 9) :
    exec (.bigMul10a rd ra digit) s =
      .next (writeBig rd (s.bigVal ra * 10 + digit) (decide (s.bigVal ra * 10 + digit ≥ 2 ^ 112)) s) :=
  command_of_none _ s (by simpa using h)

theorem runCommands_cons {i : Instr} {s t : State} (rest : List Instr) (h : exec i s = .next t) :
    runCommands (i :: rest) s = runCommands rest t := by
  rw [runCommands, h]

end Sys2Proof.Machine
end

section
/-! PROOF. The decimal load (R161): each digit multiplies the register by ten and adds itself. -/

namespace Sys2Proof.Machine

/-- The number that the value v followed by decimal digits writes, most significant digit first (R161). -/
def appendDigits (v : Nat) (digits : List Nat) : Nat := v * 10 ^ digits.length + Nat.ofDigits 10 digits.reverse

theorem appendDigits_cons (v d : Nat) (digits : List Nat) :
    appendDigits v (d :: digits) = appendDigits (v * 10 + d) digits := by
  rw [appendDigits, appendDigits, Nat.ofDigits_reverse_cons, List.length_cons, pow_succ]
  ring

theorem le_appendDigits (v : Nat) (digits : List Nat) : v ≤ appendDigits v digits :=
  (Nat.le_mul_of_pos_right v (Nat.pow_pos (by decide))).trans (Nat.le_add_right _ _)

theorem appendDigits_mod (v : Nat) (digits : List Nat) :
    appendDigits (v % 2 ^ 112) digits % 2 ^ 112 = appendDigits v digits % 2 ^ 112 :=
  Nat.ModEq.add_right _ (Nat.ModEq.mul_right _ (Nat.mod_modEq v _))

/-- Digits appended to a register: modulo 2^112, and with no carry where the number fits. -/
theorem runCommands_mul10a (bd : BigReg) (digits : List Nat) (s : State) (hdigits : ∀ d ∈ digits, d ≤ 9) :
    ∃ t, runCommands (digits.map (.bigMul10a bd bd)) s = .next t ∧
      t.bigVal bd = appendDigits (s.bigVal bd) digits % 2 ^ 112 ∧
      (appendDigits (s.bigVal bd) digits < 2 ^ 112 → s.c = false → t.c = false) ∧ t.errcode = s.errcode := by
  induction digits generalizing s with
  | nil =>
    refine ⟨s, rfl, ?_, fun _ hc => hc, rfl⟩
    simpa [appendDigits] using (Nat.mod_eq_of_lt (s.bigVal_lt bd)).symm
  | cons d digits ih =>
    obtain ⟨hd, hrest⟩ := List.forall_mem_cons.1 hdigits
    obtain ⟨t, hrun, hval, hcarry, herr⟩ :=
      ih (writeBig bd (s.bigVal bd * 10 + d) (decide (s.bigVal bd * 10 + d ≥ 2 ^ 112)) s) hrest
    rw [writeBig_bigVal_same] at hval hcarry
    rw [List.map_cons, runCommands_cons _ (exec_bigMul10a bd bd s hd), appendDigits_cons]
    refine ⟨t, hrun, hval.trans (appendDigits_mod _ _), fun hfits _ => ?_, herr⟩
    have hsmall : s.bigVal bd * 10 + d < 2 ^ 112 := (le_appendDigits _ digits).trans_lt hfits
    exact hcarry (by rwa [Nat.mod_eq_of_lt hsmall]) (decide_eq_false (Nat.not_le.2 hsmall))

/-- Thirty-three digits fit in a big register (R161). -/
theorem ofDigits_lt_of_length_le {digits : List Nat} (hdigits : ∀ d ∈ digits, d ≤ 9) (hlen : digits.length ≤ 33) :
    Nat.ofDigits 10 digits.reverse < 2 ^ 112 :=
  calc Nat.ofDigits 10 digits.reverse
      < 10 ^ digits.reverse.length :=
        Nat.ofDigits_lt_base_pow_length (by decide) fun d hd => Nat.lt_succ_of_le (hdigits d (List.mem_reverse.1 hd))
    _ ≤ 10 ^ 33 := Nat.pow_le_pow_right (by decide) (List.length_reverse.trans_le hlen)
    _ < 2 ^ 112 := by decide

/-- Settles O57: after the clear the digits are appended to 0 with C = 0, by induction on the digits. -/
theorem decimalLoadGivesTheValue : Obligations.DecimalLoadGivesTheValue := by
  intro bd digits s hdigits
  obtain ⟨t, hrun, hval, hcarry, herr⟩ := runCommands_mul10a bd digits (writeBig bd 0 false s) hdigits
  rw [writeBig_bigVal_same, Nat.zero_mod, appendDigits, Nat.zero_mul, Nat.zero_add] at hval hcarry
  refine ⟨t, (runCommands_cons _ (exec_bigClr bd s)).trans hrun, hval, fun hlen => ?_, herr⟩
  have hfits := ofDigits_lt_of_length_le hdigits hlen
  exact ⟨hval.trans (Nat.mod_eq_of_lt hfits), hcarry hfits rfl⟩

end Sys2Proof.Machine
end

section
/-! PROOF. The division of R162: what one round of each loop does, then each loop by induction on its bound. -/

namespace Sys2Proof.Machine.HostScript

/-! The alignment (step 1) -/

/-- The state after a round's compare of 2·B1, left in B3, with B0. -/
def compareDoubled (s : State) : State :=
  let t := writeBig .b3 (s.bigVal .b1 * 2 ^ 1) (s.bigVal .b1 * 2 ^ 1 / 2 ^ 112 != 0) s
  writeCompare (t.bigVal .b3) (t.bigVal .b0) t

/-- The state after a round that doubles B1. -/
def doubleDivisor (s : State) : State :=
  let t := compareDoubled s
  writeBig .b1 (t.bigVal .b1 * 2 ^ 1) (t.bigVal .b1 * 2 ^ 1 / 2 ^ 112 != 0) t

@[simp] theorem compareDoubled_b0 (s : State) : (compareDoubled s).bigVal .b0 = s.bigVal .b0 := rfl
@[simp] theorem compareDoubled_errcode (s : State) : (compareDoubled s).errcode = s.errcode := rfl

@[simp] theorem doubleDivisor_b0 (s : State) : (doubleDivisor s).bigVal .b0 = s.bigVal .b0 := rfl
@[simp] theorem doubleDivisor_errcode (s : State) : (doubleDivisor s).errcode = s.errcode := rfl

/-- A shift by one that does not overflow doubles (R157). -/
theorem writeBig_double (rd ra : BigReg) (c : Bool) {s : State} (h : 2 * s.bigVal ra < 2 ^ 112) :
    (writeBig rd (s.bigVal ra * 2 ^ 1) c s).bigVal rd = 2 * s.bigVal ra := by
  rw [writeBig_bigVal_same, pow_one, Nat.mul_comm, Nat.mod_eq_of_lt h]

theorem doubleDivisor_b1 {s : State} (h : 2 * s.bigVal .b1 < 2 ^ 112) :
    (doubleDivisor s).bigVal .b1 = 2 * s.bigVal .b1 :=
  writeBig_double (s := compareDoubled s) .b1 .b1 _ h

theorem compareDoubled_gt {s : State} (h : 2 * s.bigVal .b1 < 2 ^ 112) :
    (compareDoubled s).gt = decide (s.bigVal .b0 < 2 * s.bigVal .b1) := by
  rw [← writeBig_double .b3 .b1 (s.bigVal .b1 * 2 ^ 1 / 2 ^ 112 != 0) h]
  rfl

/-- A round of the alignment loop: stop at GT, else double and count. -/
theorem align_succ (fuel count : Nat) (s : State) :
    align (fuel + 1) count s =
      if (compareDoubled s).gt then .next (compareDoubled s, count)
      else align fuel (count + 1) (doubleDivisor s) := rfl

theorem two_mul_mul_two_pow (d j : Nat) : 2 * d * 2 ^ j = d * 2 ^ (j + 1) := by ring

/-- No doubling of d that the alignment to v computes overflows (R162). -/
def DoublingFits (d v : Nat) : Prop := 2 * d < 2 ^ 112 ∧ ∀ j, d * 2 ^ j ≤ v → d * 2 ^ (j + 1) < 2 ^ 112

theorem DoublingFits.double {d v : Nat} (h : DoublingFits d v) (hle : 2 * d ≤ v) : DoublingFits (2 * d) v := by
  obtain ⟨-, hfits⟩ := h
  refine ⟨?_, fun j hj => ?_⟩
  · have hnext : d * 2 ^ (1 + 1) < 2 ^ 112 := hfits 1 (by omega)
    omega
  · rw [two_mul_mul_two_pow] at hj ⊢
    exact hfits (j + 1) hj

/-- The alignment doubles B1 until twice B1 is above B0, if the bound on its rounds allows. -/
theorem align_spec (fuel count : Nat) (s : State) (hfits : DoublingFits (s.bigVal .b1) (s.bigVal .b0))
    (hfuel : s.bigVal .b0 < s.bigVal .b1 * 2 ^ fuel) :
    ∃ t n, align fuel count s = .next (t, count + n) ∧ t.bigVal .b0 = s.bigVal .b0 ∧
      t.bigVal .b1 = s.bigVal .b1 * 2 ^ n ∧ s.bigVal .b0 < 2 * t.bigVal .b1 ∧ t.errcode = s.errcode := by
  induction fuel generalizing count s with
  | zero => exact ⟨s, 0, rfl, rfl, (Nat.mul_one _).symm, by omega, rfl⟩
  | succ fuel ih =>
    rw [align_succ, compareDoubled_gt hfits.1]
    by_cases hgt : s.bigVal .b0 < 2 * s.bigVal .b1
    · rw [if_pos (decide_eq_true hgt)]
      exact ⟨compareDoubled s, 0, rfl, compareDoubled_b0 s, (Nat.mul_one _).symm, hgt, compareDoubled_errcode s⟩
    · have hb1 := doubleDivisor_b1 hfits.1
      obtain ⟨t, n, hrun, hb0, hb1', hlt, herr⟩ := ih (count + 1) (doubleDivisor s)
        (hb1 ▸ hfits.double (Nat.not_lt.1 hgt)) (by rwa [hb1, doubleDivisor_b0, two_mul_mul_two_pow])
      rw [if_neg (by simpa using hgt)]
      refine ⟨t, n + 1, ?_, hb0.trans (doubleDivisor_b0 s), ?_, hlt, herr.trans (doubleDivisor_errcode s)⟩
      · rw [hrun, Nat.add_right_comm, Nat.add_assoc]
      · rw [hb1', hb1, two_mul_mul_two_pow]

/-! The subtraction (step 2) -/

/-- A round's compare of B0 with B1. -/
def compareDivisor (s : State) : State := writeCompare (s.bigVal .b0) (s.bigVal .b1) s

/-- The quotient bit that a round appends. -/
def quotientBit (s : State) : Bool := (compareDivisor s).gt || (compareDivisor s).eq

/-- The state after a round's subtraction, which happens where the quotient bit is 1. -/
def reduceOnce (s : State) : State :=
  let t := compareDivisor s
  if quotientBit s then
    writeBig .b0 (t.bigVal .b0 + 2 ^ 112 - t.bigVal .b1) (decide (t.bigVal .b0 < t.bigVal .b1)) t
  else t

/-- The state after a round that also halves B1. -/
def halveDivisor (s : State) : State :=
  let t := reduceOnce s
  writeBig .b1 (t.bigVal .b1 / 2 ^ 1) (t.bigVal .b1 % 2 ^ 1 != 0) t

@[simp] theorem quotientBit_eq_true {s : State} : quotientBit s = true ↔ s.bigVal .b1 ≤ s.bigVal .b0 := by
  simp only [quotientBit, compareDivisor, writeCompare, Bool.or_eq_true, decide_eq_true_eq]
  omega

theorem reduceOnce_of_le {s : State} (h : s.bigVal .b1 ≤ s.bigVal .b0) :
    (reduceOnce s).bigVal .b0 = s.bigVal .b0 - s.bigVal .b1 := by
  have hlt := s.bigVal_lt .b0
  simp only [reduceOnce, if_pos (quotientBit_eq_true.2 h), writeBig_bigVal_same, compareDivisor, writeCompare_bigVal]
  omega

theorem reduceOnce_of_lt {s : State} (h : s.bigVal .b0 < s.bigVal .b1) : reduceOnce s = compareDivisor s :=
  if_neg (mt quotientBit_eq_true.1 (Nat.not_le.2 h))

@[simp] theorem reduceOnce_b1 (s : State) : (reduceOnce s).bigVal .b1 = s.bigVal .b1 := by
  unfold reduceOnce
  split
  · exact writeBig_bigVal_other _ _ _ (by decide)
  · rfl

@[simp] theorem reduceOnce_errcode (s : State) : (reduceOnce s).errcode = s.errcode := by
  unfold reduceOnce
  split <;> rfl

@[simp] theorem halveDivisor_b0 (s : State) : (halveDivisor s).bigVal .b0 = (reduceOnce s).bigVal .b0 := rfl
@[simp] theorem halveDivisor_errcode (s : State) : (halveDivisor s).errcode = s.errcode := reduceOnce_errcode s

theorem halveDivisor_b1 (s : State) : (halveDivisor s).bigVal .b1 = s.bigVal .b1 / 2 := by
  have hlt := s.bigVal_lt .b1
  rw [halveDivisor, writeBig_bigVal_same, reduceOnce_b1]
  omega

/-- A round takes the quotient bit times B1 from B0. -/
theorem reduceOnce_b0_add (s : State) :
    (reduceOnce s).bigVal .b0 + (quotientBit s).toNat * s.bigVal .b1 = s.bigVal .b0 := by
  rcases Nat.lt_or_ge (s.bigVal .b0) (s.bigVal .b1) with hlt | hle
  · have hbit : quotientBit s = false := Bool.eq_false_iff.2 (mt quotientBit_eq_true.1 (Nat.not_le.2 hlt))
    rw [reduceOnce_of_lt hlt, hbit, Bool.toNat_false, Nat.zero_mul]
    rfl
  · rw [reduceOnce_of_le hle, quotientBit_eq_true.2 hle, Bool.toNat_true, Nat.one_mul, Nat.sub_add_cancel hle]

/-- B0 below 2·B1 is below B1 after a round. -/
theorem reduceOnce_b0_lt {s : State} (h : s.bigVal .b0 < 2 * s.bigVal .b1) :
    (reduceOnce s).bigVal .b0 < s.bigVal .b1 := by
  rcases Nat.lt_or_ge (s.bigVal .b0) (s.bigVal .b1) with hlt | hle
  · rw [reduceOnce_of_lt hlt]
    exact hlt
  · rw [reduceOnce_of_le hle]
    omega

/-- A round keeps the remainder and splits its bit from the quotient. -/
theorem div_mod_reduceOnce {s : State} {d i : Nat} (hd : 0 < d) (hb1 : s.bigVal .b1 = d * 2 ^ i) :
    s.bigVal .b0 / d = (reduceOnce s).bigVal .b0 / d + (quotientBit s).toNat * 2 ^ i ∧
      s.bigVal .b0 % d = (reduceOnce s).bigVal .b0 % d := by
  have hsplit : s.bigVal .b0 = (reduceOnce s).bigVal .b0 + d * ((quotientBit s).toNat * 2 ^ i) := by
    rw [Nat.mul_left_comm, ← hb1, reduceOnce_b0_add]
  constructor
  · rw [hsplit, Nat.add_mul_div_left _ _ hd]
  · rw [hsplit, Nat.add_mul_mod_self_left]

/-- The compare and the conditional subtraction of a round. -/
theorem runThen_reduce (s : State) (next : State → Bool → Host.Outcome (State × Nat) Fault Refusal) :
    (runThen [.bigCmp .b0 .b1] s fun t =>
      runThen (if t.gt || t.eq then [.bigSub .b0 .b0 .b1] else []) t fun u => next u (t.gt || t.eq)) =
      next (reduceOnce s) (quotientBit s) := by
  change (runThen (if quotientBit s then [.bigSub .b0 .b0 .b1] else []) (compareDivisor s) fun u =>
    next u (quotientBit s)) = _
  unfold reduceOnce
  split <;> rfl

theorem subtractDown_zero (quotient : Nat) (s : State) :
    subtractDown 0 quotient s = .next (reduceOnce s, 2 * quotient + (quotientBit s).toNat) :=
  runThen_reduce s fun u bit => .next (u, 2 * quotient + bit.toNat)

theorem subtractDown_succ (i quotient : Nat) (s : State) :
    subtractDown (i + 1) quotient s = subtractDown i (2 * quotient + (quotientBit s).toNat) (halveDivisor s) :=
  runThen_reduce s fun u bit => runThen [.bigShr .b1 .b1 1] u (subtractDown i (2 * quotient + bit.toNat))

/-- From B1 = d·2^i and B0 below twice that, the subtraction leaves the remainder and appends the quotient's bits. -/
theorem subtractDown_spec {d : Nat} (hd : 0 < d) (i quotient : Nat) (s : State) (hb1 : s.bigVal .b1 = d * 2 ^ i)
    (hlt : s.bigVal .b0 < 2 * s.bigVal .b1) :
    ∃ t, subtractDown i quotient s = .next (t, quotient * 2 ^ (i + 1) + s.bigVal .b0 / d) ∧
      t.bigVal .b0 = s.bigVal .b0 % d ∧ t.errcode = s.errcode := by
  induction i generalizing quotient s with
  | zero =>
    obtain ⟨hdiv, hmod⟩ := div_mod_reduceOnce hd hb1
    have hreduced : (reduceOnce s).bigVal .b0 < d := (reduceOnce_b0_lt hlt).trans_eq (hb1.trans (Nat.mul_one d))
    refine ⟨reduceOnce s, ?_, hmod.trans (Nat.mod_eq_of_lt hreduced) |>.symm, reduceOnce_errcode s⟩
    rw [subtractDown_zero, hdiv, Nat.div_eq_of_lt hreduced]
    congr 2
    ring
  | succ i ih =>
    obtain ⟨hdiv, hmod⟩ := div_mod_reduceOnce hd hb1
    have hhalf : (halveDivisor s).bigVal .b1 = d * 2 ^ i := by
      rw [halveDivisor_b1, hb1, pow_succ, ← Nat.mul_assoc, Nat.mul_div_cancel _ (by decide)]
    have hbelow : (halveDivisor s).bigVal .b0 < 2 * (halveDivisor s).bigVal .b1 := by
      calc (halveDivisor s).bigVal .b0 < s.bigVal .b1 := reduceOnce_b0_lt hlt
        _ = 2 * (halveDivisor s).bigVal .b1 := by rw [hb1, hhalf, ← Nat.mul_assoc, two_mul_mul_two_pow]
    obtain ⟨t, hrun, hrem, herr⟩ := ih (2 * quotient + (quotientBit s).toNat) (halveDivisor s) hhalf hbelow
    refine ⟨t, ?_, hrem.trans hmod.symm, herr.trans (halveDivisor_errcode s)⟩
    rw [subtractDown_succ, hrun, hdiv, halveDivisor_b0]
    congr 2
    ring

end Sys2Proof.Machine.HostScript

namespace Sys2Proof.Machine

/-- Settles O58: the alignment reaches B1 = divisor·2^n with B0 below twice that, and from there n + 1 rounds of
subtraction give the quotient's bits. -/
theorem shiftSubtractDivides : Obligations.ShiftSubtractDivides := by
  rintro _ _ s rfl rfl hpos hdouble hfits
  have hfuel : s.bigVal .b0 < s.bigVal .b1 * 2 ^ 112 := by
    have hb0 := s.bigVal_lt .b0
    omega
  obtain ⟨t, n, halign, hb0, hb1, hlt, herr⟩ := HostScript.align_spec 112 0 s ⟨hdouble, hfits⟩ hfuel
  obtain ⟨u, hsub, hrem, herr'⟩ := HostScript.subtractDown_spec hpos n 0 t hb1 (hb0 ▸ hlt)
  refine ⟨u, ?_, hb0 ▸ hrem, herr'.trans herr⟩
  rw [HostScript.divide, halign]
  simpa [hb0] using hsub

end Sys2Proof.Machine
end
